-- ==== Sys2Proof/Word.lean ====
section
/-! DEFINITION. The word of QSBD: every register value is an unsigned 32-bit word (spec/00_scope.md R13). -/

namespace Sys2Proof

/-- An unsigned 32-bit word (R13). -/
abbrev Word := BitVec 32

end Sys2Proof
end

