-- ==== Sys2Proof/Config.lean ====
section
/-! DEFINITION. What is fixed when a QSBD is built: the elaboration parameters (spec/00_scope.md R8 to R11), the function
parameters the spec leaves open, and the free values. -/

namespace Sys2Proof

/-- How the masks modify iteration 1 (R11, R157, R158). -/
inductive Iter1Mode where
  | override
  | passes
  deriving DecidableEq, Repr, Inhabited

/-- The five function parameters of R11. A set of positions is given by its membership test, of which only the
positions in `[0, 2r)` are ever asked; the argument sets of `combine` are indicator vectors of length 2r (R14). -/
structure Algo where
  /-- TAU(k, sw, m, kc), R153 -/
  tau : Word → Nat → Nat → BitVec 2 → Nat
  /-- MASKS(u, τ, kc) = (B, G), R156 -/
  masks : List Nat → Nat → BitVec 2 → (Nat → Bool) × (Nat → Bool)
  /-- ITER1_MODE -/
  mode : Iter1Mode
  /-- COMBINE(F, B, G), used in OVERRIDE mode, R157 -/
  combine : List Bool → List Bool → List Bool → Nat → Bool
  /-- MASK_TAU(sw, m, kc), used in PASSES mode, R158 -/
  maskTau : Nat → Nat → BitVec 2 → Nat

/-- TAU of the build numbered by the first argument: total, deterministic, otherwise unknown (R11, log entry 2). -/
opaque Config.TAU : Nat → Word → Nat → Nat → BitVec 2 → Nat

/-- MASKS of a build (R11, log entry 2). -/
opaque Config.MASKS : Nat → List Nat → Nat → BitVec 2 → (Nat → Bool) × (Nat → Bool)

/-- ITER1_MODE of a build (R11, log entry 2). -/
opaque Config.ITER1_MODE : Nat → Iter1Mode

/-- COMBINE of a build (R11, log entry 2). -/
opaque Config.COMBINE : Nat → List Bool → List Bool → List Bool → Nat → Bool

/-- MASK_TAU of a build (R11, log entry 2). -/
opaque Config.MASK_TAU : Nat → Nat → Nat → BitVec 2 → Nat

/-- The free value of the n-th unspecified bus read (spec/20_memory.md R89, log entry 6). -/
opaque Config.freeWord : Nat → Word

/-- QSBD_BASE of the instance numbered by the argument: chosen by the platform (R76, R206, log entry 16). -/
opaque Config.QSBD_BASE : Nat → Nat

/-- The host address of a register of an instance. No rule of the block depends on it (R76). -/
def Config.hostAddress (inst : Nat) (off : BitVec 12) : Nat := Config.QSBD_BASE inst + off.toNat

/-- Which function parameters a build has: `impl n` is the n-th build, whose functions are unknown; `tc0`, `tc1`, `tc2`
are the informative test configurations of spec/95_test_vectors.md §0 (log entry 3). -/
inductive AlgoId where
  | impl (n : Nat)
  | tc0
  | tc1
  | tc2
  deriving DecidableEq, Repr

/-- The largest counter bound and the parameter-free parts of TC0 to TC2 depend on `w` alone. -/
def AlgoId.fns (id : AlgoId) (w : Nat) : Algo :=
  match id with
  | .impl n =>
    { tau := Config.TAU n, masks := Config.MASKS n, mode := Config.ITER1_MODE n,
      combine := Config.COMBINE n, maskTau := Config.MASK_TAU n }
  | .tc0 =>
    { tau := fun _ _ _ _ => w, masks := fun _ _ _ => (fun _ => false, fun _ => false),
      mode := .override, combine := fun f _ _ j => f.getD j false, maskTau := fun _ _ _ => 0 }
  | .tc1 =>
    { tau := fun _ _ m _ => if 1 ≤ m then m - 1 else 0,
      masks := fun u τ _ => (fun j => decide (τ < u.getD j 0), fun j => decide (u.getD j 0 = τ)),
      mode := .override, combine := fun f _ _ j => f.getD j false, maskTau := fun _ _ _ => 0 }
  | .tc2 =>
    { tau := fun _ _ m _ => max (m - 1) (w / 2),
      masks := fun u τ _ =>
        (fun j => decide (τ < u.getD j 0), fun j => decide (τ ≤ u.getD j 0 + 2 ∧ u.getD j 0 ≤ τ)),
      mode := .passes, combine := fun f _ _ j => f.getD j false,
      maskTau := fun _ _ _ => (w + 1) / 2 - 1 }

/-- Primality, as a check that computes. -/
def isPrime (n : Nat) : Bool :=
  decide (2 ≤ n) && (List.range n).all fun d => decide (d < 2) || decide (n % d ≠ 0)

/-- The legal ranges of R8. A tuple outside them is `InvalidParameter`, refused at elaboration (R9). -/
def legalParams (r w t nbIter : Nat) : Bool :=
  isPrime r && decide (r ≤ 2 ^ 31 - 1) && decide (1 ≤ w) && decide (w ≤ r) && decide (1 ≤ t) &&
    decide (t ≤ 2 * r) && decide (1 ≤ nbIter) && decide (nbIter ≤ 2 ^ 32 - 1)

/-- The elaboration parameters of one build, with the proof that they are legal (R8, R9). -/
structure Params where
  /-- block length, a prime -/
  r : Nat
  /-- block weight -/
  w : Nat
  /-- error weight -/
  t : Nat
  /-- iteration bound of DECODE -/
  nbIter : Nat
  /-- the build's function parameters -/
  algo : AlgoId
  legal : legalParams r w t nbIter = true
  deriving DecidableEq, Repr

namespace Params

/-- Elaboration: `none` is `InvalidParameter` (R9). -/
def elaborate (r w t nbIter : Nat) (algo : AlgoId) : Option Params :=
  if h : legalParams r w t nbIter = true then some ⟨r, w, t, nbIter, algo, h⟩ else none

/-- The function parameters of the build (R11). -/
def fns (p : Params) : Algo := p.algo.fns p.w

/-- NW, the number of 32-bit words of a packed length-r vector (R10). -/
def nw (p : Params) : Nat := (p.r + 31) / 32

/-- CW = bitlength(w), the width of a counter (R10). -/
def cw (p : Params) : Nat := p.w.size

end Params

/-- The parameters of the machine `State.reset` is a reset of: the fixture's sizes (spec/95_test_vectors.md §0) and
build 0 (DESIGN CHOICE, log entry 1). Every other claim is about every legal `Params`. -/
def Config.params : Params := ⟨11, 3, 2, 5, .impl 0, by decide⟩

/-- The ID register, "QSBD" (spec/10_state.md R41). -/
def Config.ID : Word := 0x51534244#32

/-- The VERSION register, 1.0 (R41). -/
def Config.VERSION : Word := 0x00010000#32

end Sys2Proof
end

