-- ==== Sys2Proof/Syntax.lean ====
section
/-! DEFINITION. The commands of QSBD: one constructor per row of spec/opcode_table.json (spec/30_encoding.md R101). -/

namespace Sys2Proof

/-- A command. No command has an immediate, a register field or any other explicit operand (R102). -/
inductive Instr where
  /-- NOP, no operation (R117) -/
  | nop
  /-- CPROD0, circulant product of block 0 (R135) -/
  | cprod0
  /-- CPROD1, circulant product of block 1 (R136) -/
  | cprod1
  /-- SYNDROME, syndrome of an error vector (R137) -/
  | syndrome
  /-- DECODE, the full BGF decode (R167) -/
  | decode
  /-- DEC_INIT, initialise a stepped decode (R168) -/
  | decInit
  /-- DEC_STEP, one decoder round (R169) -/
  | decStep
  /-- CLEAR, clears the result state (R118) -/
  | clear
  deriving DecidableEq, Repr

/-- The mnemonic of the opcode table. -/
def Instr.mnemonic : Instr → String
  | .nop => "NOP"
  | .cprod0 => "CPROD0"
  | .cprod1 => "CPROD1"
  | .syndrome => "SYNDROME"
  | .decode => "DECODE"
  | .decInit => "DEC_INIT"
  | .decStep => "DEC_STEP"
  | .clear => "CLEAR"

end Sys2Proof
end

