-- ==== Sys2Proof/WellFormed.lean ====
section
/-! DEFINITION. The well-formedness checks. A command has no operand, so every `Instr` is well formed; what can be ill
formed is a command word (spec/30_encoding.md R103), an elaboration parameter tuple (`legalParams`, spec/00_scope.md R8) and a
length-n vector of the data storage (spec/00_scope.md R14). -/

namespace Sys2Proof

/-- A command carries no operand (R102), so there is nothing in it to check. -/
def Instr.wf : Instr → Bool
  | .nop => true
  | .cprod0 => true
  | .cprod1 => true
  | .syndrome => true
  | .decode => true
  | .decInit => true
  | .decStep => true
  | .clear => true

/-- RSVD, bits 31:8, must be 0 (R100). -/
def rsvdClear (c : Word) : Bool := decide (c.extractLsb' 8 24 = 0#24)

/-- OP, bits 7:0, is one of the eight opcodes (R101). -/
def opKnown (c : Word) : Bool := decide ((c.extractLsb' 0 8).toNat < 0x08)

/-- A legal command word: the negation of R103. -/
def legalWord (c : Word) : Bool := rsvdClear c && opKnown c

end Sys2Proof
end

