-- ==== Sys2Proof/Decode.lean ====
section
/-! DEFINITION. Decoding and encoding of command words (spec/30_encoding.md R100 to R104). A command is one 32-bit word with
no byte order (spec/20_memory.md R87), so the decoder reads a word. -/

namespace Sys2Proof

/-- OP, bits 7:0 (R100). -/
def opField (c : Word) : BitVec 8 := c.extractLsb' 0 8

/-- RSVD, bits 31:8 (R100). -/
def rsvdField (c : Word) : BitVec 24 := c.extractLsb' 8 24

/-- The command a word selects, in the form of spec/40_control.md R112; `none` is an illegal word (R103). -/
def decodeWord (c : Word) : Option Instr :=
  if rsvdField c ≠ 0#24 then none
  else
    match (opField c).toNat with
    | 0x00 => some .nop
    | 0x01 => some .cprod0
    | 0x02 => some .cprod1
    | 0x03 => some .syndrome
    | 0x04 => some .decode
    | 0x05 => some .decInit
    | 0x06 => some .decStep
    | 0x07 => some .clear
    | _ => none

/-- The OP value of a command (R101). -/
def opcode : Instr → BitVec 8
  | .nop => 0x00#8
  | .cprod0 => 0x01#8
  | .cprod1 => 0x02#8
  | .syndrome => 0x03#8
  | .decode => 0x04#8
  | .decInit => 0x05#8
  | .decStep => 0x06#8
  | .clear => 0x07#8

/-- The word of a command: RSVD = 0 above its opcode (R100). -/
def encode (i : Instr) : Word := 0#24 ++ opcode i

/-- The opcode map of R101: match word, mask and command. -/
def opcodeTable : List (Word × Word × Instr) :=
  [(0x00000000#32, 0xFFFFFFFF#32, .nop), (0x00000001#32, 0xFFFFFFFF#32, .cprod0),
   (0x00000002#32, 0xFFFFFFFF#32, .cprod1), (0x00000003#32, 0xFFFFFFFF#32, .syndrome),
   (0x00000004#32, 0xFFFFFFFF#32, .decode), (0x00000005#32, 0xFFFFFFFF#32, .decInit),
   (0x00000006#32, 0xFFFFFFFF#32, .decStep), (0x00000007#32, 0xFFFFFFFF#32, .clear)]

/-- A word of at most 32 bits, read as the opcode table numbers it, the bits above `nbits` zero (R100: a command is one
word, so a longer one is none). -/
def tableWord (nbits w : Nat) : Word := BitVec.ofNat 32 (w % 2 ^ nbits)

/-- The command the decoder reads from a word of the opcode table. -/
def decodeTableWord (nbits w : Nat) : Option Instr :=
  if nbits ≤ 32 then decodeWord (tableWord nbits w) else none

end Sys2Proof
end

