-- ==== Sys2Proof/Machine/Bits.lean ====
section
/-! DEFINITION. Bit vectors as lists of bits, and the packed operations on them (spec/00_scope.md R13 to R19): XOR, popcount,
block halves, and the packing into words (spec/20_memory.md R80). -/

namespace Sys2Proof.Machine

/-- `sat32(n) = min(n, 2^32 − 1)` (R13). -/
def sat32 (n : Nat) : Word := BitVec.ofNat 32 (min n (2 ^ 32 - 1))

/-- The vector of length n whose bit i is `f i` (R14). -/
def bits (n : Nat) (f : Nat → Bool) : List Bool := (List.range n).map f

/-- `v[i]`; a position past the end is no bit of the vector and reads 0, as a padding bit does (R80). -/
def bit (v : List Bool) (i : Nat) : Bool := v.getD i false

/-- `u ⊕ v` of two vectors of one length (R14). -/
def xorV (u v : List Bool) : List Bool := List.zipWith xor u v

/-- `0_n` (R14). -/
def zeroV (n : Nat) : List Bool := List.replicate n false

/-- `popcount(v)` (R14). -/
def popcount (v : List Bool) : Nat := v.count true

/-- `v == 0` (R14). -/
def isZero (v : List Bool) : Bool := v.all not

/-- `supp(v)` in rising order (R14). -/
def supp (v : List Bool) : List Nat := (List.range v.length).filter (bit v)

/-- `1_S` of length n (R14). -/
def indicator (n : Nat) (S : List Nat) : List Bool := bits n fun i => decide (i ∈ S)

/-- The parity of a list of bits: their XOR (R130). -/
def parity (l : List Bool) : Bool := l.foldr xor false

/-- `(c − p) mod r`, the remainder of an integer (R15). -/
def subMod (r c p : Nat) : Nat := (((c : Int) - (p : Int)) % (r : Int)).toNat

/-- `blk(j)` (R16). -/
def blk (r j : Nat) : Nat := if j < r then 0 else 1

/-- `loc(j)` (R16). -/
def loc (r j : Nat) : Nat := j - r * blk r j

/-- `e_0` of a length-2r vector (R16). -/
def half0 (r : Nat) (e : List Bool) : List Bool := e.take r

/-- `e_1` of a length-2r vector (R16). -/
def half1 (r : Nat) (e : List Bool) : List Bool := e.drop r

/-- Word i of the packed form of a vector: bit b is `v[32·i + b]`, and padding bits read 0 (R80). -/
def packWord (v : List Bool) (i : Nat) : Word := BitVec.ofFnLE fun b : Fin 32 => bit v (32 * i + b.val)

/-- A vector after a write of `x` to word i of its packed form; a write to a padding bit is discarded (R80). -/
def unpackWord (v : List Bool) (i : Nat) (x : Word) : List Bool :=
  bits v.length fun n => if n / 32 = i then x.getLsbD (n % 32) else bit v n

end Sys2Proof.Machine
end

