-- ==== Sys2Proof/Machine/State.lean ====
section
/-! DEFINITION. The state of QSBD (spec/10_state.md R20), its reset (spec/70_reset_and_hazards.md R221), and the reasons a
step can stop. -/

namespace Sys2Proof.Machine

/-- The error codes of STATUS.ERR (spec/60_exceptions.md R191). Codes 5 to 15 are never produced. -/
inductive ErrCode where
  | none
  | illegalCmd
  | invalidKey
  | invalidError
  | notReady
  deriving DecidableEq, Repr

/-- The sequencer state (R60). -/
inductive Seq where
  /-- the post-reset storage-initialisation phase -/
  | init
  /-- no command is running -/
  | idle
  /-- the engine is running the accepted word `c` -/
  | busy (c : Word)
  deriving DecidableEq, Repr

/-- What happens next at the block's interface, or that the engine moves next (log entry 4). -/
inductive Event where
  /-- the host's `MemRead(off, 4)` -/
  | read (off : BitVec 12)
  /-- the host's `MemWrite(off, 4, v)` -/
  | write (off : BitVec 12) (v : Word)
  /-- the engine's turn -/
  | engine
  /-- `rst` is asserted (R220) -/
  | assertRst
  /-- `rst` is deasserted (R220) -/
  | releaseRst
  deriving DecidableEq, Repr

/-- The data storage (R21 to R27). A bit vector of length n is the list of its n bits, bit 0 first (R14); a key store is
the list of its entries; UPC is the list of its counters. There is no byte memory (R87, log entry 8). -/
structure Memory where
  /-- H0, w entries (R21) -/
  h0 : List Word
  /-- H1, w entries (R21) -/
  h1 : List Word
  /-- EIN, 2r bits (R22) -/
  ein : List Bool
  /-- SYN, r bits (R23) -/
  syn : List Bool
  /-- RES, r bits (R24) -/
  res : List Bool
  /-- EOUT, 2r bits (R25) -/
  eout : List Bool
  /-- BLACK, 2r bits (R26) -/
  black : List Bool
  /-- GRAY, 2r bits (R26) -/
  gray : List Bool
  /-- UPC, 2r counters of 0..w (R27) -/
  upc : List Nat
  deriving DecidableEq, Repr

/-- The canonical form of the data storage of a build: every vector has its length, so padding is not stored (R80), and
every counter fits in CW bits because it is at most w (R151). -/
def Memory.wf (p : Params) (m : Memory) : Bool :=
  decide (m.h0.length = p.w) && decide (m.h1.length = p.w) && decide (m.ein.length = 2 * p.r) &&
    decide (m.syn.length = p.r) && decide (m.res.length = p.r) && decide (m.eout.length = 2 * p.r) &&
    decide (m.black.length = 2 * p.r) && decide (m.gray.length = 2 * p.r) &&
    decide (m.upc.length = 2 * p.r) && m.upc.all fun u => decide (u ≤ p.w)

/-- The data storage with every element zero (R221). -/
def Memory.zero (p : Params) : Memory where
  h0 := List.replicate p.w 0#32
  h1 := List.replicate p.w 0#32
  ein := List.replicate (2 * p.r) false
  syn := List.replicate p.r false
  res := List.replicate p.r false
  eout := List.replicate (2 * p.r) false
  black := List.replicate (2 * p.r) false
  gray := List.replicate (2 * p.r) false
  upc := List.replicate (2 * p.r) 0

/-- The machine. The fields up to `wbusy` are the state of R20; `params` is the read-only description of the build
(log entry 1); the last four are the model's own (log entries 4 to 7). -/
structure State where
  /-- the elaboration parameters; no step changes them (R8) -/
  params : Params
  /-- the data storage -/
  mem : Memory
  /-- ITER (R30) -/
  iter : Word
  /-- LAST_TAU (R31) -/
  lastTau : Word
  /-- LAST_MAXUPC (R32) -/
  lastMaxUpc : Word
  /-- LAST_SYNW (R33) -/
  lastSynW : Word
  /-- RES_WEIGHT (R34) -/
  resWeight : Word
  /-- ERR_INFO (R35) -/
  errInfo : Word
  /-- CTRL.IRQ_EN (R43) -/
  irqEn : Bool
  /-- CTRL.KEYCLASS (R43) -/
  keyClass : BitVec 2
  /-- STATUS.ERR (R45) -/
  err : ErrCode
  /-- IRQ_STATUS.DONE_IRQ (R46) -/
  doneIrq : Bool
  /-- IRQ_STATUS.ERR_IRQ (R46) -/
  errIrq : Bool
  /-- WIN_SEL (R47) -/
  winSel : BitVec 8
  /-- WIN_IDX (R48) -/
  winIdx : Word
  /-- the sequencer (R60) -/
  seq : Seq
  /-- DONE (R64) -/
  done : Bool
  /-- SUCCESS (R65) -/
  success : Bool
  /-- STEP_READY (R62) -/
  stepReady : Bool
  /-- WBUSY (R63) -/
  wbusy : Bool
  /-- the level of the reset input (R220, log entry 5) -/
  rst : Bool
  /-- the pending events, the next one first (R71, log entry 4) -/
  inputs : List Event
  /-- the bus's read data: the value the last read returned (R7, log entry 7) -/
  rdata : Word
  /-- how many free values unspecified reads have drawn (R89, log entry 6) -/
  fresh : Nat
  deriving DecidableEq, Repr

/-- There is no fault: no bus access raises an error (R74, R190), a command's error is a completion (R113), and nothing in
QSBD is stuck (spec/93_implementation_defined.md, Part 1). -/
inductive Fault where
  deriving DecidableEq, Repr

/-- The refusals. -/
inductive Refusal where
  /-- Raised by an arm of `exec` whose instruction has no meaning yet. Safe. No arm does. -/
  | notModelled (mnemonic : String)
  /-- Raised by a bus access while `rst` is asserted: "A model has no step for it" (R223, I8). Safe. -/
  | accessDuringReset
  deriving DecidableEq, Repr

/-- A build right after reset: every element at the value of R221, `seq = INIT`. -/
def State.resetFor (p : Params) : State where
  params := p
  mem := Memory.zero p
  iter := 0#32
  lastTau := 0#32
  lastMaxUpc := 0#32
  lastSynW := 0#32
  resWeight := 0#32
  errInfo := 0#32
  irqEn := false
  keyClass := 0#2
  err := .none
  doneIrq := false
  errIrq := false
  winSel := 0#8
  winIdx := 0#32
  seq := .init
  done := false
  success := false
  stepReady := false
  wbusy := false
  rst := false
  inputs := []
  rdata := 0#32
  fresh := 0

/-- The machine right after reset, for the build of `Config.params` (log entry 1). -/
def State.reset : State := State.resetFor Config.params

end Sys2Proof.Machine
end

