-- ==== Sys2Proof/Machine/Flags.lean ====
section
/-! DEFINITION. The status flags, the words the status registers read as, the completion flags (spec/40_control.md R113) and
the interrupt output (spec/60_exceptions.md R198). -/

namespace Sys2Proof.Machine

/-- The 4-bit value of an error code (R191). -/
def ErrCode.code : ErrCode → BitVec 4
  | .none => 0#4
  | .illegalCmd => 1#4
  | .invalidKey => 2#4
  | .invalidError => 3#4
  | .notReady => 4#4

/-- `STATUS.BUSY = 1` if and only if `seq ≠ IDLE` (R61). -/
def State.busy (s : State) : Bool := decide (s.seq ≠ .idle)

/-- CTRL as a read returns it (R43). -/
def State.ctrlWord (s : State) : Word := 0#29 ++ s.keyClass ++ BitVec.ofBool s.irqEn

/-- STATUS as a read returns it (R45). -/
def State.statusWord (s : State) : Word :=
  0#20 ++ s.err.code ++ 0#3 ++ BitVec.ofBool s.wbusy ++ BitVec.ofBool s.stepReady ++
    BitVec.ofBool s.success ++ BitVec.ofBool s.done ++ BitVec.ofBool s.busy

/-- IRQ_STATUS as a read returns it (R46). -/
def State.irqStatusWord (s : State) : Word :=
  0#29 ++ BitVec.ofBool s.wbusy ++ BitVec.ofBool s.errIrq ++ BitVec.ofBool s.doneIrq

/-- The irq output, `CTRL.IRQ_EN and (DONE_IRQ or ERR_IRQ)` (R198). -/
def State.irq (s : State) : Bool := s.irqEn && (s.doneIrq || s.errIrq)

/-- The part of completion that every outcome of a command shares, STATUS.ERR and ERR_INFO being already set (R113). -/
def completionFlags (s : State) : State :=
  { s with
    resWeight := BitVec.ofNat 32 (popcount s.mem.res)
    done := true
    doneIrq := true
    errIrq := s.errIrq || decide (s.err ≠ .none)
    seq := .idle }

end Sys2Proof.Machine
end

