-- ==== Sys2Proof/Machine/Circulant.lean ====
section
/-! DEFINITION. The circulant products and counters as functions of vectors (spec/41_syndrome.md §1, spec/42_decoder.md §1). -/

namespace Sys2Proof.Machine

/-- A key store read as a set: `h_b = { H_b[k] : k < w }` (R150), each member once (R130, log entry 11). -/
def keySet (entries : List Word) : List Nat := (entries.map BitVec.toNat).dedup

/-- `CP(h, v)[c] = XOR over p in h of v[(c − p) mod r]` (R130). -/
def cp (r : Nat) (h : List Nat) (v : List Bool) : List Bool :=
  bits r fun c => parity (h.map fun p => bit v (subMod r c p))

/-- `Syn(h0, h1, e) = CP(h0, e_0) ⊕ CP(h1, e_1)` (R132). -/
def syndromeOf (r : Nat) (h0 h1 : List Nat) (e : List Bool) : List Bool :=
  xorV (cp r h0 (half0 r e)) (cp r h1 (half1 r e))

/-- `(c − j) mod r ∈ h_b`: position j of a block is adjacent to check c (R131). -/
def adjacent (r : Nat) (h : List Nat) (j c : Nat) : Bool := decide (subMod r c j ∈ h)

/-- The support of the block position j lies in. -/
def blockSet (r : Nat) (h0 h1 : List Nat) (j : Nat) : List Nat := if blk r j = 0 then h0 else h1

/-- `UPC(s)[j] = sum over p in h_blk(j) of s[(loc(j) + p) mod r]` (R151). -/
def upcAt (r : Nat) (h0 h1 : List Nat) (s : List Bool) (j : Nat) : Nat :=
  (blockSet r h0 h1 j).countP fun p => bit s ((loc r j + p) % r)

/-- All 2r counters (R151). -/
def upcOf (r : Nat) (h0 h1 : List Nat) (s : List Bool) : List Nat :=
  (List.range (2 * r)).map (upcAt r h0 h1 s)

/-- `m(s)`, the maximum counter (R152). -/
def maxCounter (u : List Nat) : Nat := u.foldr max 0

/-- `{ j ∈ [0, 2r) : u[j] > τ }` as a vector (R154). -/
def flipSet (r : Nat) (u : List Nat) (τ : Nat) : List Bool :=
  bits (2 * r) fun j => decide (τ < u.getD j 0)

/-- `{ j in M : u'[j] > tm }` as a vector (R158). -/
def maskedFlipSet (r : Nat) (M : List Bool) (u : List Nat) (tm : Nat) : List Bool :=
  bits (2 * r) fun j => bit M j && decide (tm < u.getD j 0)

end Sys2Proof.Machine
end

