-- ==== Sys2Proof/Machine/Operands.lean ====
section
/-! DEFINITION. The operands of the commands (spec/30_encoding.md R102: fixed storage elements) and the one addressing form
of QSBD, the indexed window access (spec/20_memory.md §4). -/

namespace Sys2Proof.Machine

/-- The support h0 held in H0 (R150). -/
def State.key0 (s : State) : List Nat := keySet s.mem.h0

/-- The support h1 held in H1 (R150). -/
def State.key1 (s : State) : List Nat := keySet s.mem.h1

/-- EIN_0 (R22). -/
def State.ein0 (s : State) : List Bool := half0 s.params.r s.mem.ein

/-- EIN_1 (R22). -/
def State.ein1 (s : State) : List Bool := half1 s.params.r s.mem.ein

/-- The counters of the residual under the key held (R151). -/
def State.counters (s : State) : List Nat := upcOf s.params.r s.key0 s.key1 s.mem.res

/-- The windows of R79. -/
inductive Window where
  | h0 | h1 | ein0 | ein1 | syn | res | eout0 | eout1 | black0 | black1 | gray0 | gray1 | upc0 | upc1
  deriving DecidableEq, Repr

/-- The window WIN_SEL names; `none` is a reserved window (R79, R85). -/
def windowOf (sel : BitVec 8) : Option Window :=
  match sel.toNat with
  | 0x00 => some .h0
  | 0x01 => some .h1
  | 0x02 => some .ein0
  | 0x03 => some .ein1
  | 0x04 => some .syn
  | 0x05 => some .res
  | 0x06 => some .eout0
  | 0x07 => some .eout1
  | 0x08 => some .black0
  | 0x09 => some .black1
  | 0x0A => some .gray0
  | 0x0B => some .gray1
  | 0x0C => some .upc0
  | 0x0D => some .upc1
  | _ => none

/-- The length of a window (R79). -/
def Window.length (p : Params) : Window → Nat
  | .h0 | .h1 => p.w
  | .upc0 | .upc1 => p.r
  | .ein0 | .ein1 | .syn | .res | .eout0 | .eout1 | .black0 | .black1 | .gray0 | .gray1 => p.nw

/-- Whether host access is RW (R79). -/
def Window.writable : Window → Bool
  | .h0 | .h1 | .ein0 | .ein1 | .syn => true
  | .res | .eout0 | .eout1 | .black0 | .black1 | .gray0 | .gray1 | .upc0 | .upc1 => false

/-- `Win(w, i)` (R79): key entries by R82, vectors by R80, counters by R81. -/
def Window.entry (p : Params) (m : Memory) (i : Nat) : Window → Word
  | .h0 => m.h0.getD i 0#32
  | .h1 => m.h1.getD i 0#32
  | .ein0 => packWord (half0 p.r m.ein) i
  | .ein1 => packWord (half1 p.r m.ein) i
  | .syn => packWord m.syn i
  | .res => packWord m.res i
  | .eout0 => packWord (half0 p.r m.eout) i
  | .eout1 => packWord (half1 p.r m.eout) i
  | .black0 => packWord (half0 p.r m.black) i
  | .black1 => packWord (half1 p.r m.black) i
  | .gray0 => packWord (half0 p.r m.gray) i
  | .gray1 => packWord (half1 p.r m.gray) i
  | .upc0 => BitVec.ofNat 32 (m.upc.getD i 0)
  | .upc1 => BitVec.ofNat 32 (m.upc.getD (p.r + i) 0)

/-- The data storage after `x` is stored into `Win(w, i)`; a read-only window stores nothing (R84). -/
def Window.store (p : Params) (m : Memory) (i : Nat) (x : Word) : Window → Memory
  | .h0 => { m with h0 := m.h0.set i x }
  | .h1 => { m with h1 := m.h1.set i x }
  | .ein0 => { m with ein := unpackWord (half0 p.r m.ein) i x ++ half1 p.r m.ein }
  | .ein1 => { m with ein := half0 p.r m.ein ++ unpackWord (half1 p.r m.ein) i x }
  | .syn => { m with syn := unpackWord m.syn i x }
  | .res | .eout0 | .eout1 | .black0 | .black1 | .gray0 | .gray1 | .upc0 | .upc1 => m

/-- Whether a window is a key store, whose stored writes end a step sequence (R86). -/
def Window.isKey : Window → Bool
  | .h0 | .h1 => true
  | .ein0 | .ein1 | .syn | .res | .eout0 | .eout1 | .black0 | .black1 | .gray0 | .gray1 | .upc0 | .upc1 =>
    false

/-- What a WIN_DATA read of a state returns while the engine is idle (R83, R85). -/
def State.winRead (s : State) : Word :=
  match windowOf s.winSel with
  | some w => if s.winIdx.toNat < w.length s.params then w.entry s.params s.mem s.winIdx.toNat else 0#32
  | none => 0#32

/-- Every WIN_DATA access increments WIN_IDX modulo 2^32 (R83, R84). -/
def State.bumpIdx (s : State) : State := { s with winIdx := s.winIdx + 1#32 }

/-- A WIN_DATA write while the engine is idle (R84), less the increment of WIN_IDX. A stored key entry sets STEP_READY to
0 (R86). -/
def State.winWrite (s : State) (x : Word) : State :=
  match windowOf s.winSel with
  | some w =>
    if w.writable && decide (s.winIdx.toNat < w.length s.params) then
      { s with
        mem := w.store s.params s.mem s.winIdx.toNat x
        stepReady := s.stepReady && !w.isKey }
    else s
  | none => s

end Sys2Proof.Machine
end

