-- ==== Sys2Proof/Machine/Ops.lean ====
section
/-! DEFINITION. The shared operations of the commands: completing, raising an error and acknowledging it
(spec/40_control.md R113, spec/60_exceptions.md R192, R199), the checks (spec/41_syndrome.md R133, R134), and the parts of the
decoder (spec/42_decoder.md R155 to R162). -/

namespace Sys2Proof.Machine

/-- An error a command raises: its code and its ERR_INFO (R192, R193). -/
structure CmdError where
  code : ErrCode
  info : Word
  deriving DecidableEq, Repr

/-- Completion of a command whose `Exec` ended normally in `s` (R113). -/
def completeOk (s : State) : State := completionFlags { s with err := .none, errInfo := 0#32 }

/-- `raise CmdError(code, info)` in a command that began in `s`: every effect is discarded, and the completion records the
error (R192, R113). This is all that taking an error does: nothing traps (R190). -/
def raiseCmdError (e : CmdError) (s : State) : State :=
  completionFlags { s with err := e.code, errInfo := e.info }

/-- The acknowledge, the only "return" (R199): a host write of `v` to IRQ_STATUS clears each W1C bit where `v` has a 1
(R46, R78). -/
def acknowledge (v : Word) (s : State) : State :=
  { s with
    doneIrq := s.doneIrq && !v.getLsbD 0
    errIrq := s.errIrq && !v.getLsbD 1
    wbusy := s.wbusy && !v.getLsbD 2 }

/-- The end of a command: it raises the error its checks found, or completes with its effects in `s'` (R112, R113). -/
def finish (check : Option CmdError) (s s' : State) : Host.Outcome State Fault Refusal :=
  .next (match check with
    | some e => raiseCmdError e s
    | none => completeOk s')

/-- `{b, k[30:0]}` (R133, R193). -/
def keyInfo (b : Bool) (k : Nat) : Word := BitVec.ofBool b ++ BitVec.ofNat 31 k

/-- The index of the first entry, from index `k` on, that is not below r or repeats one of `seen` (R133). -/
def scanKey (r : Nat) : Nat → List Word → List Word → Option Nat
  | _, _, [] => none
  | k, seen, x :: xs => if r ≤ x.toNat ∨ x ∈ seen then some k else scanKey r (k + 1) (seen ++ [x]) xs

/-- KeyCheck: H0 first, then H1, each in entry order (R133). -/
def keyCheck (s : State) : Option CmdError :=
  match scanKey s.params.r 0 [] s.mem.h0 with
  | some k => some ⟨.invalidKey, keyInfo false k⟩
  | none =>
    match scanKey s.params.r 0 [] s.mem.h1 with
    | some k => some ⟨.invalidKey, keyInfo true k⟩
    | none => none

/-- The weight of EIN that ErrCheck observes (R134). -/
def einWeight (s : State) : Nat := popcount s.ein0 + popcount s.ein1

/-- ErrCheck (R134). -/
def errCheck (s : State) : Option CmdError :=
  if einWeight s ≠ s.params.t then some ⟨.invalidError, BitVec.ofNat 32 (einWeight s)⟩ else none

/-- `SYN <- v`. -/
def State.setSyn (s : State) (v : List Bool) : State := { s with mem.syn := v }

/-- `Flip(F)` (R155). -/
def flip (F : List Bool) (s : State) : State :=
  { s with
    mem.eout := xorV s.mem.eout F
    mem.res := xorV (xorV s.mem.res (cp s.params.r s.key0 (half0 s.params.r F)))
      (cp s.params.r s.key1 (half1 s.params.r F)) }

/-- `MaskPass(M)` (R158). -/
def maskPass (A : Algo) (M : List Bool) (s : State) : State :=
  flip (maskedFlipSet s.params.r M s.counters
    (A.maskTau (popcount s.mem.res) (maxCounter s.counters) s.keyClass)) s

/-- `BLACK <- 1_B ; GRAY <- 1_G` (R156). -/
def setMasks (B G : List Bool) (s : State) : State := { s with mem.black := B, mem.gray := G }

/-- The flips of iteration 1, with the main pass's `u`, `τ` and `F`: the masks are computed and recorded, and they modify
the one flip (OVERRIDE, R157) or are followed by two mask passes, black before gray (PASSES, R158). -/
def firstFlips (A : Algo) (u : List Nat) (τ : Nat) (F : List Bool) (s : State) : State :=
  let BG := A.masks u τ s.keyClass
  let B := bits (2 * s.params.r) BG.1
  let G := bits (2 * s.params.r) BG.2
  match A.mode with
  | .override => flip (bits (2 * s.params.r) (A.combine F B G)) (setMasks B G s)
  | .passes => maskPass A G (maskPass A B (flip F (setMasks B G s)))

/-- The recording of the main pass's values (R159). -/
def record (u : List Nat) (τ m sw : Nat) (s : State) : State :=
  { s with
    mem.upc := u
    lastTau := sat32 τ
    lastMaxUpc := BitVec.ofNat 32 m
    lastSynW := BitVec.ofNat 32 sw }

/-- The main-pass threshold of iteration k (R153). -/
def threshold (A : Algo) (k : Word) (s : State) : Nat :=
  A.tau k (popcount s.mem.res) (maxCounter s.counters) s.keyClass

/-- `Iteration(k)` (R160). -/
def iteration (A : Algo) (k : Word) (s : State) : State :=
  let u := s.counters
  let τ := threshold A k s
  let F := flipSet s.params.r u τ
  record u τ (maxCounter u) (popcount s.mem.res) (if k = 1#32 then firstFlips A u τ F s else flip F s)

/-- The storage and registers both DecInit and CLEAR zero (R161, R118). -/
def clearDecoder (s : State) : State :=
  { s with
    mem.eout := zeroV (2 * s.params.r)
    mem.black := zeroV (2 * s.params.r)
    mem.gray := zeroV (2 * s.params.r)
    mem.upc := List.replicate (2 * s.params.r) 0
    iter := 0#32
    lastTau := 0#32
    lastMaxUpc := 0#32
    lastSynW := 0#32 }

/-- `RES <- v`. -/
def State.setRes (s : State) (v : List Bool) : State := { s with mem.res := v }

/-- `DecInit()` (R161). -/
def decInit (s : State) : State := (clearDecoder s).setRes s.mem.syn

/-- `SUCCESS <- b`. -/
def State.setSuccess (s : State) (b : Bool) : State := { s with success := b }

/-- `SUCCESS <- (RES == 0_r)` (R163). -/
def judge (s : State) : State := s.setSuccess (isZero s.mem.res)

/-- `STEP_READY <- b` (R62). -/
def State.setStepReady (s : State) (b : Bool) : State := { s with stepReady := b }

/-- `x[ITER] <- k`. -/
def State.setIter (s : State) (k : Word) : State := { s with iter := k }

/-- One round of DecodeLoop: `Iteration(ITER + 1) ; ITER <- ITER + 1` (R162). -/
def decodeRound (A : Algo) (s : State) : State := (iteration A (s.iter + 1#32) s).setIter (s.iter + 1#32)

/-- `DecodeLoop()` with `nbIter − ITER` iterations left (R162, log entry 12). The zero test comes before every iteration,
the first included. -/
def decodeLoop (A : Algo) : Nat → State → State
  | 0, s => s.setSuccess (isZero s.mem.res)
  | left + 1, s => if isZero s.mem.res then s.setSuccess true else decodeLoop A left (decodeRound A s)

end Sys2Proof.Machine
end

