-- ==== Sys2Proof/Machine/Bus.lean ====
section
/-! DEFINITION. Host bus accesses to the register space (spec/20_memory.md §2, §3, §6). -/

namespace Sys2Proof.Machine

/-- The registers of R76; `reserved` is every other offset (R75). -/
inductive Reg where
  | id | version | paramR | paramW | paramT | paramNbIter | ctrl | cmd | status | irqStatus
  | iter | lastTau | lastMaxUpc | lastSynW | resWeight | errInfo | winSel | winIdx | winData
  | reserved
  deriving DecidableEq, Repr

/-- `addr[1:0]` are ignored: an access to `a` is an access to `a & 0xFFC` (R73). -/
def alignOffset (a : BitVec 12) : BitVec 12 := a &&& 0xFFC#12

/-- The register at an offset (R73, R75, R76). -/
def regAt (a : BitVec 12) : Reg :=
  match (alignOffset a).toNat with
  | 0x000 => .id
  | 0x004 => .version
  | 0x008 => .paramR
  | 0x00C => .paramW
  | 0x010 => .paramT
  | 0x014 => .paramNbIter
  | 0x018 => .ctrl
  | 0x01C => .cmd
  | 0x020 => .status
  | 0x024 => .irqStatus
  | 0x028 => .iter
  | 0x02C => .lastTau
  | 0x030 => .lastMaxUpc
  | 0x034 => .lastSynW
  | 0x038 => .resWeight
  | 0x03C => .errInfo
  | 0x040 => .winSel
  | 0x044 => .winIdx
  | 0x048 => .winData
  | _ => .reserved

/-- What a read of a register returns while the engine is idle (R77, R41 to R49, R30 to R35). -/
def Reg.value (s : State) : Reg → Word
  | .id => Config.ID
  | .version => Config.VERSION
  | .paramR => BitVec.ofNat 32 s.params.r
  | .paramW => BitVec.ofNat 32 s.params.w
  | .paramT => BitVec.ofNat 32 s.params.t
  | .paramNbIter => BitVec.ofNat 32 s.params.nbIter
  | .ctrl => s.ctrlWord
  | .cmd => 0#32
  | .status => s.statusWord
  | .irqStatus => s.irqStatusWord
  | .iter => s.iter
  | .lastTau => s.lastTau
  | .lastMaxUpc => s.lastMaxUpc
  | .lastSynW => s.lastSynW
  | .resWeight => s.resWeight
  | .errInfo => s.errInfo
  | .winSel => s.winSel.setWidth 32
  | .winIdx => s.winIdx
  | .winData => s.winRead
  | .reserved => 0#32

/-- The registers whose reads are unspecified while `seq ≠ IDLE` (R89). -/
def Reg.volatile : Reg → Bool
  | .iter | .lastTau | .lastMaxUpc | .lastSynW | .resWeight | .errInfo | .winData => true
  | .id | .version | .paramR | .paramW | .paramT | .paramNbIter | .ctrl | .cmd | .status | .irqStatus
  | .winSel | .winIdx | .reserved => false

/-- The read data of an access: the register's value, or a free value drawn anew where R89 leaves it unspecified. -/
def fetchData (r : Reg) (s : State) : State :=
  if s.busy && r.volatile then { s with rdata := Config.freeWord s.fresh, fresh := s.fresh + 1 }
  else { s with rdata := r.value s }

/-- `MemRead(off, 4)` (R77, R83). -/
def busRead (off : BitVec 12) (s : State) : State :=
  let r := regAt off
  let s' := fetchData r s
  if r = .winData then s'.bumpIdx else s'

/-- Accept (R111): a write of `c` to CMD while `seq = IDLE`. -/
def accept (c : Word) (s : State) : State := { s with err := .none, done := false, seq := .busy c }

/-- The trace a dropped write leaves (R95, R63). -/
def dropWrite (s : State) : State := { s with wbusy := true }

/-- A write to CTRL stores the RW fields (R43, R78). -/
def storeCtrl (v : Word) (s : State) : State :=
  { s with irqEn := v.getLsbD 0, keyClass := v.extractLsb' 1 2 }

/-- `MemWrite(off, 4, v)` (R78, R84, R95, R111). -/
def busWrite (off : BitVec 12) (v : Word) (s : State) : State :=
  match regAt off with
  | .ctrl => if s.busy then dropWrite s else storeCtrl v s
  | .cmd => if s.busy then dropWrite s else accept v s
  | .winData => if s.busy then (dropWrite s).bumpIdx else (s.winWrite v).bumpIdx
  | .irqStatus => acknowledge v s
  | .winSel => { s with winSel := v.extractLsb' 0 8 }
  | .winIdx => { s with winIdx := v }
  | .id | .version | .paramR | .paramW | .paramT | .paramNbIter | .status | .iter | .lastTau | .lastMaxUpc
  | .lastSynW | .resWeight | .errInfo | .reserved => s

end Sys2Proof.Machine
end

