-- ==== Sys2Proof/Machine/Control.lean ====
section
/-! DEFINITION. The control commands NOP and CLEAR (spec/40_control.md §2). -/

namespace Sys2Proof.Machine

/-- NOP (R117): nothing but the completion. -/
def execNop (s : State) : Host.Outcome State Fault Refusal := finish none s s

/-- What CLEAR writes (R118). -/
def clearResults (s : State) : State :=
  { ((clearDecoder s).setRes (zeroV s.params.r)).setSyn (zeroV s.params.r) with
    success := false, stepReady := false, wbusy := false }

/-- CLEAR (R118). -/
def execClear (s : State) : Host.Outcome State Fault Refusal := finish none s (clearResults s)

end Sys2Proof.Machine
end

