-- ==== Sys2Proof/Machine/Decoder.lean ====
section
/-! DEFINITION. The decoder commands DECODE, DEC_INIT and DEC_STEP (spec/42_decoder.md §3). -/

namespace Sys2Proof.Machine

/-- DECODE (R167): KeyCheck, DecInit, DecodeLoop, `STEP_READY <- 1`. -/
def execDecode (s : State) : Host.Outcome State Fault Refusal :=
  finish (keyCheck s) s ((decodeLoop s.params.fns s.params.nbIter (decInit s)).setStepReady true)

/-- DEC_INIT (R168): KeyCheck, DecInit, `SUCCESS <- (RES == 0_r)`, `STEP_READY <- 1`. -/
def execDecInit (s : State) : Host.Outcome State Fault Refusal :=
  finish (keyCheck s) s ((judge (decInit s)).setStepReady true)

/-- NOT_READY when STEP_READY = 0 (R169). -/
def readyCheck (s : State) : Option CmdError := if s.stepReady then none else some ⟨.notReady, 0#32⟩

/-- The iteration number of the next DEC_STEP, `sat32(ITER + 1)` (R164). -/
def nextIter (s : State) : Word := sat32 (s.iter.toNat + 1)

/-- DEC_STEP (R169): one iteration, with no termination test and no KeyCheck. -/
def execDecStep (s : State) : Host.Outcome State Fault Refusal :=
  finish (readyCheck s) s (judge ((iteration s.params.fns (nextIter s) s).setIter (nextIter s)))

end Sys2Proof.Machine
end

