-- ==== Sys2Proof/Machine/Syndrome.lean ====
section
/-! DEFINITION. The syndrome commands CPROD0, CPROD1 and SYNDROME (spec/41_syndrome.md §2). -/

namespace Sys2Proof.Machine

/-- CPROD0 (R135): KeyCheck, then `SYN <- CP(h0, EIN_0)`. -/
def execCprod0 (s : State) : Host.Outcome State Fault Refusal :=
  finish (keyCheck s) s (s.setSyn (cp s.params.r s.key0 s.ein0))

/-- CPROD1 (R136): KeyCheck of the whole key, then `SYN <- CP(h1, EIN_1)`. -/
def execCprod1 (s : State) : Host.Outcome State Fault Refusal :=
  finish (keyCheck s) s (s.setSyn (cp s.params.r s.key1 s.ein1))

/-- SYNDROME (R137): KeyCheck, then ErrCheck, then `SYN <- CP(h0, EIN_0) ⊕ CP(h1, EIN_1)`. -/
def execSyndrome (s : State) : Host.Outcome State Fault Refusal :=
  finish ((keyCheck s).or (errCheck s)) s
    (s.setSyn (xorV (cp s.params.r s.key0 s.ein0) (cp s.params.r s.key1 s.ein1)))

end Sys2Proof.Machine
end

