-- ==== Sys2Proof/Machine/Dispatch.lean ====
section
/-! DEFINITION. The dispatch of `Exec` on a legal command word (spec/40_control.md R112). -/

namespace Sys2Proof.Machine

def exec (i : Instr) (s : State) : Host.Outcome State Fault Refusal :=
  match i with
  | .nop => Sys2Proof.Machine.execNop s
  | .cprod0 => Sys2Proof.Machine.execCprod0 s
  | .cprod1 => Sys2Proof.Machine.execCprod1 s
  | .syndrome => Sys2Proof.Machine.execSyndrome s
  | .decode => Sys2Proof.Machine.execDecode s
  | .decInit => Sys2Proof.Machine.execDecInit s
  | .decStep => Sys2Proof.Machine.execDecStep s
  | .clear => Sys2Proof.Machine.execClear s

end Sys2Proof.Machine
end

