-- ==== Sys2Proof/Machine/Engine.lean ====
section
/-! DEFINITION. The engine's step (spec/40_control.md R112, spec/70_reset_and_hazards.md R222), reset (R220), and what each
event at the block's interface does. -/

namespace Sys2Proof.Machine

/-- The engine's step in `BUSY(c)`: `Exec(c)` with its completion, an illegal word completing with ILLEGAL_CMD
(R112, R119). -/
def runCommand (c : Word) (s : State) : Host.Outcome State Fault Refusal :=
  match decodeWord c with
  | some i => exec i s
  | none => .next (raiseCmdError ⟨.illegalCmd, c⟩ s)

/-- The engine's turn. In INIT its step is `seq <- IDLE` and nothing else (R222); in IDLE it has no step and waits for the
host; while `rst` is asserted the block stays in the reset state (R220). -/
def engineStep (s : State) : Host.Outcome State Fault Refusal :=
  if s.rst then .next s
  else
    match s.seq with
    | .init => .next { s with seq := .idle }
    | .idle => .next s
    | .busy c => runCommand c s

/-- The reset state of the build, at a level of `rst`; what the environment holds (the pending events, the count of free
values drawn) is not the block's and stays (R220, R221, log entry 5). -/
def State.enterReset (s : State) (level : Bool) : State :=
  { State.resetFor s.params with rst := level, inputs := s.inputs, fresh := s.fresh }

/-- What one event does. A bus access while `rst` is asserted is refused (R223). -/
def handle (e : Event) (s : State) : Host.Outcome State Fault Refusal :=
  match e with
  | .engine => engineStep s
  | .read off => if s.rst then .refused .accessDuringReset else .next (busRead off s)
  | .write off v => if s.rst then .refused .accessDuringReset else .next (busWrite off v s)
  | .assertRst => .next (s.enterReset true)
  | .releaseRst => .next (if s.rst then s.enterReset false else s)

/-- One step of the machine: the next pending event, or the engine's turn when none is pending (log entry 4). -/
def nextEvent (s : State) : Host.Outcome State Fault Refusal :=
  match s.inputs with
  | [] => engineStep s
  | e :: es => handle e { s with inputs := es }

/-- `s` with the word stored as the accepted command and the engine's turn next, so that the next step runs exactly it
(log entry 10). -/
def State.placeCommand (s : State) (c : Word) : State :=
  { s with seq := .busy c, rst := false, inputs := .engine :: s.inputs }

end Sys2Proof.Machine
end

