-- ==== Sys2Proof/Machine/Step.lean ====
section
/-! DEFINITION. The step of the machine, and how a command is placed where the next step takes it. -/

namespace Sys2Proof.Machine

/-- One step of the machine: the two agents interleave as `inputs` says (spec/20_memory.md R71). -/
def step (s : State) : Host.Outcome State Fault Refusal := nextEvent s

/-- `s` with the opcode-table word as the accepted command: QSBD fetches nothing (R67), so the latched word of `seq` is
where the engine finds its command (log entry 10). -/
def State.withFetchWord (s : State) (nbits w : Nat) : State := s.placeCommand (tableWord nbits w)

end Sys2Proof.Machine
end

