-- ==== Sys2Proof/Machine/HostProgram.lean ====
section
/-! DEFINITION. Host programs (spec/30_encoding.md §3): their lines, the pseudo-statements and their expansions, the encoding of
bus transactions, and a host that runs a program against the machine's own step. It stands beside the machine: the host's
variables and its place in its program are no state of QSBD (log entry 15). -/

namespace Sys2Proof.Machine

/-- The offset of a named register (spec/20_memory.md R76); a reserved offset is given by number. -/
def Reg.offset : Reg → Option (BitVec 12)
  | .id => some 0x000#12
  | .version => some 0x004#12
  | .paramR => some 0x008#12
  | .paramW => some 0x00C#12
  | .paramT => some 0x010#12
  | .paramNbIter => some 0x014#12
  | .ctrl => some 0x018#12
  | .cmd => some 0x01C#12
  | .status => some 0x020#12
  | .irqStatus => some 0x024#12
  | .iter => some 0x028#12
  | .lastTau => some 0x02C#12
  | .lastMaxUpc => some 0x030#12
  | .lastSynW => some 0x034#12
  | .resWeight => some 0x038#12
  | .errInfo => some 0x03C#12
  | .winSel => some 0x040#12
  | .winIdx => some 0x044#12
  | .winData => some 0x048#12
  | .reserved => none

/-- A condition over host variables (R105). The spec names no grammar for COND; this one covers the conditions of
spec/95_test_vectors.md (log entry 15). -/
inductive Cond where
  /-- `x[i] == b` -/
  | bitIs (x : String) (i : Nat) (b : Bool)
  /-- `x == v` -/
  | isWord (x : String) (v : Word)
  /-- `x == y` -/
  | same (x y : String)
  /-- `x < v`, unsigned -/
  | less (x : String) (v : Word)
  | not (c : Cond)
  | and (c d : Cond)
  | or (c d : Cond)
  deriving DecidableEq, Repr

/-- A line of a host program (R105). -/
inductive Line where
  | label (l : String)
  | comment (text : String)
  /-- `wr NAME, v` -/
  | wr (off : BitVec 12) (v : Word)
  /-- `rd NAME -> x` -/
  | rd (off : BitVec 12) (x : String)
  /-- `if COND goto L` -/
  | ifGoto (c : Cond) (l : String)
  /-- "host waits for irq = 1" (spec/70_reset_and_hazards.md R224 step 7; spec/95_test_vectors.md P2 writes it as a comment;
  log entry 15) -/
  | waitIrq
  deriving DecidableEq, Repr

/-- The pseudo-statements (R106). -/
inductive Pseudo where
  | cmd (i : Instr)
  /-- `poll`, with its fresh label -/
  | poll (l : String)
  | ldwin (w : Word) (i : Word) (ds : List Word)
  | rdwin (w : Word) (i : Word) (xs : List String)
  | ack
  deriving DecidableEq, Repr

/-- The expansions of R106. -/
def Pseudo.expand : Pseudo → List Line
  | .cmd i => [.wr 0x01C#12 (encode i)]
  | .poll l => [.label l, .rd 0x020#12 "s", .ifGoto (.bitIs "s" 0 true) l]
  | .ldwin w i ds => .wr 0x040#12 w :: .wr 0x044#12 i :: ds.map (.wr 0x048#12)
  | .rdwin w i xs => .wr 0x040#12 w :: .wr 0x044#12 i :: xs.map (.rd 0x048#12)
  | .ack => [.wr 0x024#12 0x7#32]

/-- A bus transaction (R107). -/
inductive Txn where
  | write (off : BitVec 12) (data : Word)
  | read (off : BitVec 12) (data : Word)
  deriving DecidableEq, Repr

/-- A hex digit, in capitals as the spec writes them. -/
def hexDigit (n : Nat) : Char := "0123456789ABCDEF".toList.getD n '?'

/-- The n low hex digits of a number, the most significant first. -/
def hexDigits : Nat → Nat → List Char
  | 0, _ => []
  | n + 1, v => hexDigit (v / 16 ^ n % 16) :: hexDigits n v

/-- The encoding line of a transaction, as its characters: `W <off> <data>` or `R <off> -> <data>` (R107). -/
def Txn.render : Txn → List Char
  | .write off data => ['W', ' '] ++ hexDigits 3 off.toNat ++ [' '] ++ hexDigits 8 data.toNat
  | .read off data => ['R', ' '] ++ hexDigits 3 off.toNat ++ [' ', '-', '>', ' '] ++ hexDigits 8 data.toNat

/-- The labels a program defines. -/
def labelsOf (prog : List Line) : List String :=
  prog.filterMap fun
    | .label l => some l
    | .comment _ | .wr _ _ | .rd _ _ | .ifGoto _ _ | .waitIrq => none

/-- A program is well formed when no label is defined twice and every `goto` has its label (R105, R106: fresh labels). The spec does not say that other programs are ill formed; `Session.hostTurn` runs them too
(DESIGN CHOICE, log entry 18). -/
def Program.wf (prog : List Line) : Bool :=
  decide (labelsOf prog).Nodup && prog.all fun
    | .ifGoto _ l => decide (l ∈ labelsOf prog)
    | .label _ | .comment _ | .wr _ _ | .rd _ _ | .waitIrq => true

/-- The value of a host variable; one that was never read into is 0 (log entry 15). -/
def lookupVar (vars : List (String × Word)) (x : String) : Word := (vars.lookup x).getD 0#32

/-- Whether a condition holds of the host variables. -/
def Cond.holds (vars : List (String × Word)) : Cond → Bool
  | .bitIs x i b => (lookupVar vars x).getLsbD i == b
  | .isWord x v => lookupVar vars x == v
  | .same x y => lookupVar vars x == lookupVar vars y
  | .less x v => decide ((lookupVar vars x).toNat < v.toNat)
  | .not c => !c.holds vars
  | .and c d => c.holds vars && d.holds vars
  | .or c d => c.holds vars || d.holds vars

/-- A host running a program against a machine. -/
structure Session where
  machine : State
  prog : List Line
  /-- the index of the next line -/
  line : Nat
  vars : List (String × Word)
  /-- the transactions made so far, in order (R107) -/
  trace : List Txn
  deriving DecidableEq, Repr

/-- The machine's next step taken with `e` as its next event. -/
def stepOn (e : Event) (s : State) : Host.Outcome State Fault Refusal := step { s with inputs := e :: s.inputs }

/-- The host's turn: it runs one line of its program (R105). Where an `if … goto L` is taken and L is no label of the program,
the program ends (its next line is past the last), and where L is defined twice, the first definition is taken: DESIGN CHOICE,
the spec states neither (log entry 18). -/
def Session.hostTurn (x : Session) : Host.Outcome Session Fault Refusal :=
  match x.prog[x.line]? with
  | none => .next x
  | some (.label _) => .next { x with line := x.line + 1 }
  | some (.comment _) => .next { x with line := x.line + 1 }
  | some (.wr off v) =>
    match stepOn (.write off v) x.machine with
    | .next m => .next { x with machine := m, line := x.line + 1, trace := x.trace ++ [.write off v] }
    | .fault r => .fault r
    | .refused r => .refused r
  | some (.rd off y) =>
    match stepOn (.read off) x.machine with
    | .next m =>
      .next { x with machine := m, line := x.line + 1, vars := (y, m.rdata) :: x.vars.filter (·.1 != y),
                     trace := x.trace ++ [.read off m.rdata] }
    | .fault r => .fault r
    | .refused r => .refused r
  | some (.ifGoto c l) =>
    .next { x with line := if c.holds x.vars then x.prog.idxOf (.label l) else x.line + 1 }
  | some .waitIrq => .next { x with line := if x.machine.irq then x.line + 1 else x.line }

/-- The engine's turn. -/
def Session.engineTurn (x : Session) : Host.Outcome Session Fault Refusal :=
  match stepOn .engine x.machine with
  | .next m => .next { x with machine := m }
  | .fault r => .fault r
  | .refused r => .refused r

end Sys2Proof.Machine
end

