-- ==== Sys2Proof/Safety.lean ====
section
/-! DEFINITION. What the claims speak of: the machine's invariant, the runs it is an invariant of, and the frames of the
commands. -/

namespace Sys2Proof.Machine

/-- The key held in H0 and H1 passes KeyCheck (spec/41_syndrome.md R133). -/
def KeyValid (s : State) : Prop := keyCheck s = none

/-- The syndrome that RES and EOUT are a decoder state of, under the key held: `RES ⊕ Syn(h0, h1, EOUT)`
(spec/42_decoder.md R165). -/
def State.decoderInput (s : State) : List Bool :=
  xorV s.mem.res (syndromeOf s.params.r s.key0 s.key1 s.mem.eout)

/-- The machine's invariant. -/
structure State.Inv (s : State) : Prop where
  /-- the data storage keeps its canonical form (R14, R80, R151) -/
  memWf : s.mem.wf s.params = true
  /-- RES_WEIGHT is the weight of RES (R34) -/
  weight : s.resWeight = BitVec.ofNat 32 (popcount s.mem.res)
  /-- a prepared decoder state goes with a valid key (R165) -/
  ready : s.stepReady = true → KeyValid s
  /-- in a prepared decoder state SUCCESS says whether RES is zero (R163) -/
  judged : s.stepReady = true → s.success = isZero s.mem.res
  /-- SUCCESS is never 1 with a nonzero residual (R65, R163) -/
  solved : s.success = true → isZero s.mem.res = true
  /-- from accept to completion, and in INIT, DONE and ERR are clear (R111, R221) -/
  running : s.seq ≠ .idle → s.done = false ∧ s.err = .none
  /-- while `rst` is asserted the block is in its reset state (R220), with the read data 0 (the model's choice, log entry 7) -/
  held : s.rst = true → s = s.enterReset true

/-- A state that is a reset of some build, with any pending events. -/
def State.IsReset (s : State) : Prop := ∃ p es, s = { State.resetFor p with inputs := es }

/-- A state some run of some build reaches. -/
def Reachable (s : State) : Prop := ∃ s₀ n, s₀.IsReset ∧ core.run n s₀ = .next s

/-- A run of `n` steps is safe: it ends in no refusal (no bus access is made while `rst` is asserted, R223). -/
def SafeRun (n : Nat) (s : State) : Prop := ∃ t, core.run n s = .next t

/-- What every completion leaves (R113), for the outcome with this error code and ERR_INFO. -/
structure Completes (s t : State) (code : ErrCode) (info : Word) : Prop where
  err : t.err = code
  errInfo : t.errInfo = info
  resWeight : t.resWeight = BitVec.ofNat 32 (popcount t.mem.res)
  done : t.done = true
  doneIrq : t.doneIrq = true
  errIrq : t.errIrq = (s.errIrq || decide (code ≠ .none))
  seq : t.seq = .idle

/-- The state no command writes: the build, the key, EIN, CTRL, WIN_SEL, WIN_IDX (R102), and the model's own fields. -/
structure KeepsHostSide (s t : State) : Prop where
  params : t.params = s.params
  h0 : t.mem.h0 = s.mem.h0
  h1 : t.mem.h1 = s.mem.h1
  ein : t.mem.ein = s.mem.ein
  irqEn : t.irqEn = s.irqEn
  keyClass : t.keyClass = s.keyClass
  winSel : t.winSel = s.winSel
  winIdx : t.winIdx = s.winIdx
  rst : t.rst = s.rst
  inputs : t.inputs = s.inputs
  rdata : t.rdata = s.rdata
  fresh : t.fresh = s.fresh

/-- The decoder's state and its records (R24 to R33, R62, R65). -/
structure KeepsDecoder (s t : State) : Prop where
  res : t.mem.res = s.mem.res
  eout : t.mem.eout = s.mem.eout
  black : t.mem.black = s.mem.black
  gray : t.mem.gray = s.mem.gray
  upc : t.mem.upc = s.mem.upc
  iter : t.iter = s.iter
  lastTau : t.lastTau = s.lastTau
  lastMaxUpc : t.lastMaxUpc = s.lastMaxUpc
  lastSynW : t.lastSynW = s.lastSynW
  success : t.success = s.success
  stepReady : t.stepReady = s.stepReady

/-- `t` differs from `s` in the completion fields alone, for this error (R192, R201). -/
def OnlyCompletes (s t : State) (code : ErrCode) (info : Word) : Prop :=
  Completes s t code info ∧ KeepsHostSide s t ∧ KeepsDecoder s t ∧ t.mem.syn = s.mem.syn ∧ t.wbusy = s.wbusy

/-- Entry k of a key store is at fault: it is not below r, or it repeats an earlier entry (R133). -/
def BadEntry (r : Nat) (entries : List Word) (k : Nat) : Prop :=
  k < entries.length ∧
    (r ≤ (entries.getD k 0#32).toNat ∨ ∃ k', k' < k ∧ entries.getD k' 0#32 = entries.getD k 0#32)

/-- Entry k is the first one at fault in entry order (R133). -/
def FirstBad (r : Nat) (entries : List Word) (k : Nat) : Prop :=
  BadEntry r entries k ∧ ∀ k', k' < k → ¬ BadEntry r entries k'

/-- The value the host gets from a bus read. -/
def regRead (off : BitVec 12) (s : State) : Word := (busRead off s).rdata

/-- It is the engine's turn: no event is pending, or the pending one says so. -/
def EngineTurn (s : State) : Prop := s.inputs = [] ∨ ∃ es, s.inputs = .engine :: es

/-- A state with another entry order in its key stores (R140). -/
def State.rekey (s : State) (l0 l1 : List Word) : State := { s with mem.h0 := l0, mem.h1 := l1 }

/-- `rot_k(v)[c] = v[(c − k) mod r]` (R139). -/
def rot (r k : Nat) (v : List Bool) : List Bool := bits r fun c => bit v (subMod r c k)

end Sys2Proof.Machine
end

