-- ==== Sys2Proof/Certificates/Slice0/Obligations.lean ====
section
/-! DEFINITION. The statements for the provers. A statement about every state holds in states no run reaches, unless it has the
machine's invariant (`State.Inv`) as a premise. A statement about the decoder holds for every choice of the function
parameters (`Algo`), or for those of the state's build. -/

open Sys2Proof Sys2Proof.Machine

/-! ### Elaboration, reset and the shape of a step -/

/-- R9, with the ranges of R8. -/
def Obligations.ElaborationRefusesExactlyIllegalParameters : Prop :=
  ∀ (r w t nbIter : Nat) (a : AlgoId),
    (Params.elaborate r w t nbIter a ≠ none ↔
      r.Prime ∧ r ≤ 2 ^ 31 - 1 ∧ 1 ≤ w ∧ w ≤ r ∧ 1 ≤ t ∧ t ≤ 2 * r ∧ 1 ≤ nbIter ∧ nbIter ≤ 2 ^ 32 - 1) ∧
    ∀ p, Params.elaborate r w t nbIter a = some p → p.r = r ∧ p.w = w ∧ p.t = t ∧ p.nbIter = nbIter

/-- R221, for every build. -/
def Obligations.ResetGivesEveryElementItsValue : Prop :=
  ∀ (p : Params) (s : State), s = State.resetFor p →
    s.mem.h0 = List.replicate p.w 0#32 ∧ s.mem.h1 = List.replicate p.w 0#32 ∧
    s.mem.ein = List.replicate (2 * p.r) false ∧ s.mem.syn = List.replicate p.r false ∧
    s.mem.res = List.replicate p.r false ∧ s.mem.eout = List.replicate (2 * p.r) false ∧
    s.mem.black = List.replicate (2 * p.r) false ∧ s.mem.gray = List.replicate (2 * p.r) false ∧
    s.mem.upc = List.replicate (2 * p.r) 0 ∧
    s.iter = 0#32 ∧ s.lastTau = 0#32 ∧ s.lastMaxUpc = 0#32 ∧ s.lastSynW = 0#32 ∧ s.resWeight = 0#32 ∧
    s.errInfo = 0#32 ∧ s.irqEn = false ∧ s.keyClass = 0#2 ∧ s.ctrlWord = 0x00000000#32 ∧
    s.statusWord = 0x00000001#32 ∧ (∃ t, step s = .next t ∧ t.seq = .idle ∧ t.statusWord = 0x00000000#32) ∧
    s.irqStatusWord = 0x00000000#32 ∧ s.winSel = 0#8 ∧ s.winIdx = 0#32 ∧ s.seq = .init ∧
    s.done = false ∧ s.success = false ∧ s.stepReady = false ∧ s.wbusy = false ∧ s.irq = false ∧
    regRead 0x000#12 s = 0x51534244#32 ∧ regRead 0x004#12 s = 0x00010000#32 ∧
    (regRead 0x008#12 s).toNat = p.r ∧ (regRead 0x00C#12 s).toNat = p.w ∧
    (regRead 0x010#12 s).toNat = p.t ∧ (regRead 0x014#12 s).toNat = p.nbIter

/-- The invariant holds at reset, for every build, every list of pending events, and `State.reset`. -/
def Obligations.ResetMeetsTheInvariant : Prop :=
  State.reset.IsReset ∧ ∀ s : State, s.IsReset → s.Inv

/-- The invariant: canonical data storage (R14, R80, R151; that the canonical form is lists of the build's lengths with
counters at most w is the model's deduction, log entry 8), RES_WEIGHT (R34), a prepared decoder state has a valid key
(R165) and a true SUCCESS (R163), no SUCCESS with a nonzero residual (R65), a running command shows neither DONE nor ERR
(R111), and a block held in reset stays in its reset state (R220; that the read data is 0 there is the model's choice, log
entry 7). -/
def Obligations.EveryStepKeepsTheInvariant : Prop :=
  ∀ s t : State, s.Inv → step s = .next t → t.Inv

/-- R8: the parameters are "Immutable, process-wide, set once at build/config time". -/
def Obligations.NoStepChangesTheBuild : Prop :=
  ∀ s t : State, step s = .next t → t.params = s.params

/-- No step faults, and a step is refused for one reason: a bus access while `rst` is asserted (R223). That the machine has no
fault at all, so that `Fault` has no constructor, is the model's deduction (log entry 17) from R74 and R190. -/
def Obligations.OnlyAccessesDuringResetAreRefused : Prop :=
  ∀ (s : State) (x : Refusal), (∀ f, step s ≠ .fault f) ∧
    (step s = .refused x ↔
      x = .accessDuringReset ∧ s.rst = true ∧
        ((∃ off, s.inputs.head? = some (.read off)) ∨ ∃ off v, s.inputs.head? = some (.write off v)))

/-- R112, R114: at the engine's turn in `BUSY(c)` with `c` a command's word, the step is that command's meaning. The second
clause, that a word placed by `withFetchWord` is exactly what the next step runs, is about how the model lets a program come to
run (log entry 10) and reads the opcode table's words (log entry 14): the model's deduction and choice, no rule of the spec. -/
def Obligations.StepRunsTheDecodedCommand : Prop :=
  (∀ (s : State) (c : Word) (i : Instr), s.rst = false → s.seq = .busy c → decodeWord c = some i →
    (s.inputs = [] → step s = exec i s) ∧
    ∀ es, s.inputs = .engine :: es → step s = exec i { s with inputs := es }) ∧
  ∀ (s : State) (nbits w : Nat) (i : Instr), decodeTableWord nbits w = some i →
    step (s.withFetchWord nbits w) = exec i { s with seq := .busy (tableWord nbits w), rst := false }

/-- R222: the engine's one step in INIT is `seq <- IDLE` and changes nothing else; INIT shows BUSY. -/
def Obligations.InitPhaseEndsInIdle : Prop :=
  ∀ s : State, s.rst = false → s.seq = .init →
    s.statusWord.getLsbD 0 = true ∧
    (s.inputs = [] → step s = .next { s with seq := .idle }) ∧
    ∀ es, s.inputs = .engine :: es → step s = .next { s with seq := .idle, inputs := es }

/-- R220, R221: asserting `rst` gives the block its reset state whatever it was doing; the engine takes no step while it
stays asserted; deasserting it leaves the reset state with `seq = INIT`. That the pending events and the count of free values
survive, and that the read data is 0 after a reset, are the model's choices (log entries 5 and 7). -/
def Obligations.ResetAbandonsWhateverRuns : Prop :=
  ∀ (s : State) (es : List Event),
    (s.inputs = .assertRst :: es →
      step s = .next { State.resetFor s.params with rst := true, inputs := es, fresh := s.fresh }) ∧
    (s.rst = true → s.inputs = .engine :: es → step s = .next { s with inputs := es }) ∧
    (s.rst = true → s.inputs = .releaseRst :: es →
      ∃ t, step s = .next t ∧ t.seq = .init ∧ t.rst = false ∧
        t = { State.resetFor s.params with inputs := es, fresh := s.fresh })

/-! ### Encoding -/

/-- R101: the eight rows of the opcode map, each selected by its whole word. -/
def Obligations.OpcodeMapWordsDecode : Prop :=
  decodeWord 0x00000000#32 = some .nop ∧ decodeWord 0x00000001#32 = some .cprod0 ∧
  decodeWord 0x00000002#32 = some .cprod1 ∧ decodeWord 0x00000003#32 = some .syndrome ∧
  decodeWord 0x00000004#32 = some .decode ∧ decodeWord 0x00000005#32 = some .decInit ∧
  decodeWord 0x00000006#32 = some .decStep ∧ decodeWord 0x00000007#32 = some .clear ∧
  decodeWord 0x00000108#32 = none ∧ decodeWord 0x00000104#32 = none ∧ decodeWord 0x80000000#32 = none

/-- Decoding and encoding agree both ways: each command has exactly one word. -/
def Obligations.DecodeAndEncodeAgree : Prop :=
  (∀ i : Instr, i.wf = true ∧ decodeWord (encode i) = some i) ∧
  (∀ (c : Word) (i : Instr), decodeWord c = some i → c = encode i) ∧
  ∀ (c : Word) (i : Instr), decodeWord c = some i ↔ ∃ row ∈ opcodeTable, row.2.2 = i ∧ c &&& row.2.1 = row.1

/-- R103, R119: a word is illegal exactly when `c[7:0] ≥ 0x08` or `c[31:8] ≠ 0`, and at the engine's turn (nothing pending, or
the pending event says so) an accepted illegal word completes with ILLEGAL_CMD and ERR_INFO = c, and changes nothing else. -/
def Obligations.IllegalWordsCompleteWithIllegalCmd : Prop :=
  (∀ c : Word, decodeWord c = none ↔ (0x08 ≤ (c.extractLsb' 0 8).toNat ∨ c.extractLsb' 8 24 ≠ 0#24)) ∧
  (∀ (s : State) (c : Word) (es : List Event), s.rst = false → s.seq = .busy c →
    (s.inputs = [] ∧ es = [] ∨ s.inputs = .engine :: es) →
    (0x08 ≤ (c.extractLsb' 0 8).toNat ∨ c.extractLsb' 8 24 ≠ 0#24) →
    ∃ t, step s = .next t ∧ OnlyCompletes { s with inputs := es } t .illegalCmd c ∧
      (t.statusWord.extractLsb' 8 4) = 1#4)

/-! ### The register space -/

/-- R73, R75: `addr[1:0]` are ignored; a reserved offset reads 0 and ignores writes, with no other effect, in every engine
state. -/
def Obligations.RegisterSpaceAddressing : Prop :=
  ∀ (a b : BitVec 12) (s : State) (v : Word),
    (a &&& 0xFFC#12 = b &&& 0xFFC#12 → busRead a s = busRead b s ∧ busWrite a v s = busWrite b v s) ∧
    (0x04C ≤ (a &&& 0xFFC#12).toNat → busRead a s = { s with rdata := 0#32 } ∧ busWrite a v s = s)

/-- R41, R42, R44, R77: the constant registers read their constants in every engine state, CMD reads 0, those reads change
nothing but the read data, and no read-only register is changed by a write (R40, R78). -/
def Obligations.ConstantAndReadOnlyRegisters : Prop :=
  ∀ (s : State) (v : Word),
    busRead 0x000#12 s = { s with rdata := 0x51534244#32 } ∧
    busRead 0x004#12 s = { s with rdata := 0x00010000#32 } ∧
    (∃ d : Word, d.toNat = s.params.r ∧ busRead 0x008#12 s = { s with rdata := d }) ∧
    (∃ d : Word, d.toNat = s.params.w ∧ busRead 0x00C#12 s = { s with rdata := d }) ∧
    (∃ d : Word, d.toNat = s.params.t ∧ busRead 0x010#12 s = { s with rdata := d }) ∧
    (∃ d : Word, d.toNat = s.params.nbIter ∧ busRead 0x014#12 s = { s with rdata := d }) ∧
    busRead 0x01C#12 s = { s with rdata := 0#32 } ∧
    ∀ a ∈ [0x000#12, 0x004#12, 0x008#12, 0x00C#12, 0x010#12, 0x014#12, 0x020#12, 0x028#12, 0x02C#12, 0x030#12,
        0x034#12, 0x038#12, 0x03C#12], busWrite a v s = s

/-- R45, R61 to R65: what a read of STATUS returns, bit by bit, in every engine state. -/
def Obligations.StatusReadsItsFlags : Prop :=
  ∀ s : State,
    ((regRead 0x020#12 s).getLsbD 0 = true ↔ s.seq ≠ .idle) ∧
    (regRead 0x020#12 s).getLsbD 1 = s.done ∧ (regRead 0x020#12 s).getLsbD 2 = s.success ∧
    (regRead 0x020#12 s).getLsbD 3 = s.stepReady ∧ (regRead 0x020#12 s).getLsbD 4 = s.wbusy ∧
    (regRead 0x020#12 s).extractLsb' 5 3 = 0#3 ∧ (regRead 0x020#12 s).extractLsb' 8 4 = s.err.code ∧
    (regRead 0x020#12 s).extractLsb' 12 20 = 0#20

/-- R43: CTRL stores IRQ_EN and KEYCLASS, and reads back what was written with its reserved bits 0. -/
def Obligations.CtrlReadsBackItsFields : Prop :=
  ∀ (s : State) (v : Word), s.seq = .idle →
    busWrite 0x018#12 v s = { s with irqEn := v.getLsbD 0, keyClass := v.extractLsb' 1 2 } ∧
    regRead 0x018#12 (busWrite 0x018#12 v s) = v &&& 0x00000007#32

/-- R46, R199: writing 1 to a pending bit of IRQ_STATUS clears it and writing 0 leaves it, in every engine state; nothing
else changes. -/
def Obligations.AcknowledgeClearsWrittenOnes : Prop :=
  ∀ (s : State) (v : Word),
    regRead 0x024#12 s &&& 0xFFFFFFF8#32 = 0#32 ∧
    regRead 0x024#12 (busWrite 0x024#12 v s) = regRead 0x024#12 s &&& ~~~ v ∧
    ∃ d e w, busWrite 0x024#12 v s = { s with doneIrq := d, errIrq := e, wbusy := w }

/-- R198: the irq output follows CTRL.IRQ_EN and the two pending bits, and is 0 at reset. -/
def Obligations.IrqFollowsItsBits : Prop :=
  (∀ s : State, s.irq = true ↔
    (regRead 0x018#12 s).getLsbD 0 = true ∧
      ((regRead 0x024#12 s).getLsbD 0 = true ∨ (regRead 0x024#12 s).getLsbD 1 = true)) ∧
  ∀ p : Params, (State.resetFor p).irq = false

/-- R111: a CMD write while idle accepts the word, and nothing else changes; while the engine is not idle it is dropped and
sets WBUSY. -/
def Obligations.CmdWriteIsAcceptedOnlyWhenIdle : Prop :=
  ∀ (s : State) (c : Word),
    (s.seq = .idle →
      busWrite 0x01C#12 c s = { s with err := .none, done := false, seq := .busy c } ∧
      (regRead 0x020#12 (busWrite 0x01C#12 c s)).getLsbD 0 = true) ∧
    (s.seq ≠ .idle → busWrite 0x01C#12 c s = { s with wbusy := true })

/-- R95: the busy write rule, for every register: what is dropped while the engine is not idle, and what takes effect, or
has none, in every engine state. -/
def Obligations.BusyWritesAreDroppedAndRecorded : Prop :=
  ∀ (s : State) (v : Word),
    (s.seq ≠ .idle →
      busWrite 0x018#12 v s = { s with wbusy := true } ∧ busWrite 0x01C#12 v s = { s with wbusy := true } ∧
      busWrite 0x048#12 v s = { s with wbusy := true, winIdx := s.winIdx + 1#32 }) ∧
    (regRead 0x040#12 (busWrite 0x040#12 v s) = v &&& 0x000000FF#32 ∧
      ∃ x, busWrite 0x040#12 v s = { s with winSel := x }) ∧
    busWrite 0x044#12 v s = { s with winIdx := v } ∧
    (regRead 0x024#12 (busWrite 0x024#12 v s) = regRead 0x024#12 s &&& ~~~ v ∧
      ∃ d e w, busWrite 0x024#12 v s = { s with doneIrq := d, errIrq := e, wbusy := w }) ∧
    (∀ a : BitVec 12, a &&& 0xFFC#12 ∉ [0x018#12, 0x01C#12, 0x024#12, 0x040#12, 0x044#12, 0x048#12] →
      busWrite a v s = s)

/-- R89: while the engine is not idle, the result registers and WIN_DATA read a free value drawn anew, and a read changes
nothing but the read data, that count, and WIN_IDX at WIN_DATA; every other offset reads its exact value, written out here
register by register (R41 to R48, R75), and changes nothing but the read data. The free value is any value of
`Config.freeWord` (log entry 6). -/
def Obligations.BusyResultReadsAreFree : Prop :=
  ∀ s : State, s.seq ≠ .idle →
    (∀ a ∈ [0x028#12, 0x02C#12, 0x030#12, 0x034#12, 0x038#12, 0x03C#12],
      busRead a s = { s with rdata := Config.freeWord s.fresh, fresh := s.fresh + 1 }) ∧
    busRead 0x048#12 s =
      { s with rdata := Config.freeWord s.fresh, fresh := s.fresh + 1, winIdx := s.winIdx + 1#32 } ∧
    busRead 0x000#12 s = { s with rdata := 0x51534244#32 } ∧
    busRead 0x004#12 s = { s with rdata := 0x00010000#32 } ∧
    (∃ d : Word, d.toNat = s.params.r ∧ busRead 0x008#12 s = { s with rdata := d }) ∧
    (∃ d : Word, d.toNat = s.params.w ∧ busRead 0x00C#12 s = { s with rdata := d }) ∧
    (∃ d : Word, d.toNat = s.params.t ∧ busRead 0x010#12 s = { s with rdata := d }) ∧
    (∃ d : Word, d.toNat = s.params.nbIter ∧ busRead 0x014#12 s = { s with rdata := d }) ∧
    busRead 0x018#12 s = { s with rdata := 0#29 ++ s.keyClass ++ BitVec.ofBool s.irqEn } ∧
    busRead 0x01C#12 s = { s with rdata := 0#32 } ∧
    busRead 0x020#12 s =
      { s with rdata := 0#20 ++ s.err.code ++ 0#3 ++ BitVec.ofBool s.wbusy ++ BitVec.ofBool s.stepReady ++
                 BitVec.ofBool s.success ++ BitVec.ofBool s.done ++ 1#1 } ∧
    busRead 0x024#12 s =
      { s with rdata := 0#29 ++ BitVec.ofBool s.wbusy ++ BitVec.ofBool s.errIrq ++ BitVec.ofBool s.doneIrq } ∧
    busRead 0x040#12 s = { s with rdata := 0#24 ++ s.winSel } ∧
    busRead 0x044#12 s = { s with rdata := s.winIdx } ∧
    ∀ a : BitVec 12, 0x04C ≤ (a &&& 0xFFC#12).toNat → busRead a s = { s with rdata := 0#32 }

/-- R30 to R35, R47, R48: while the engine is idle the result registers and the window registers read their values; and no
read has a side effect, except at WIN_DATA (R77): at every other offset nothing but the read data changes. -/
def Obligations.IdleResultReadsAreExact : Prop :=
  ∀ s : State, s.seq = .idle →
    busRead 0x028#12 s = { s with rdata := s.iter } ∧ busRead 0x02C#12 s = { s with rdata := s.lastTau } ∧
    busRead 0x030#12 s = { s with rdata := s.lastMaxUpc } ∧ busRead 0x034#12 s = { s with rdata := s.lastSynW } ∧
    busRead 0x038#12 s = { s with rdata := s.resWeight } ∧ busRead 0x03C#12 s = { s with rdata := s.errInfo } ∧
    busRead 0x040#12 s = { s with rdata := 0#24 ++ s.winSel } ∧ busRead 0x044#12 s = { s with rdata := s.winIdx } ∧
    ∀ a : BitVec 12, a &&& 0xFFC#12 ≠ 0x048#12 → ∃ d, busRead a s = { s with rdata := d }

/-! ### Windows -/

/-- R79, R80, R83, R85: a WIN_DATA read of a vector window returns the packed word, with padding bits and words past the end
reading 0, and only WIN_IDX moves. -/
def Obligations.VectorWindowsReadPackedWords : Prop :=
  ∀ (s : State) (sel : BitVec 8) (v : List Bool), s.Inv → s.seq = .idle → s.winSel = sel →
    (sel, v) ∈ [(0x02#8, s.mem.ein.take s.params.r), (0x03#8, s.mem.ein.drop s.params.r), (0x04#8, s.mem.syn),
      (0x05#8, s.mem.res), (0x06#8, s.mem.eout.take s.params.r), (0x07#8, s.mem.eout.drop s.params.r),
      (0x08#8, s.mem.black.take s.params.r), (0x09#8, s.mem.black.drop s.params.r),
      (0x0A#8, s.mem.gray.take s.params.r), (0x0B#8, s.mem.gray.drop s.params.r)] →
    (∀ b, b < 32 → (regRead 0x048#12 s).getLsbD b =
      (decide (32 * s.winIdx.toNat + b < s.params.r) && v.getD (32 * s.winIdx.toNat + b) false)) ∧
    ∃ d, busRead 0x048#12 s = { s with rdata := d, winIdx := s.winIdx + 1#32 }

/-- R79, R81, R82, R85: key entries read as stored, counters zero-extended, entries past the end and reserved windows 0. -/
def Obligations.KeyCounterAndReservedWindowsRead : Prop :=
  ∀ s : State, s.Inv → s.seq = .idle →
    (s.winSel = 0x00#8 → regRead 0x048#12 s = s.mem.h0.getD s.winIdx.toNat 0#32) ∧
    (s.winSel = 0x01#8 → regRead 0x048#12 s = s.mem.h1.getD s.winIdx.toNat 0#32) ∧
    (s.winSel = 0x0C#8 → (regRead 0x048#12 s).toNat =
      if s.winIdx.toNat < s.params.r then s.mem.upc.getD s.winIdx.toNat 0 else 0) ∧
    (s.winSel = 0x0D#8 → (regRead 0x048#12 s).toNat =
      if s.winIdx.toNat < s.params.r then s.mem.upc.getD (s.params.r + s.winIdx.toNat) 0 else 0) ∧
    (0x0E ≤ s.winSel.toNat → regRead 0x048#12 s = 0#32) ∧
    ∃ d, busRead 0x048#12 s = { s with rdata := d, winIdx := s.winIdx + 1#32 }

/-- R80, R84: a WIN_DATA write through a vector window stores the bits of one word of one vector, discards padding bits, and
changes nothing else but WIN_IDX. -/
def Obligations.VectorWindowWritesStoreOneWord : Prop :=
  ∀ (s t : State) (x : Word), s.Inv → s.seq = .idle → t = busWrite 0x048#12 x s →
    (s.winSel = 0x04#8 →
      t = { s with mem := { s.mem with syn := t.mem.syn }, winIdx := s.winIdx + 1#32 } ∧
      t.mem.syn.length = s.params.r ∧
      ∀ n, n < s.params.r → t.mem.syn.getD n false =
        if n / 32 = s.winIdx.toNat then x.getLsbD (n % 32) else s.mem.syn.getD n false) ∧
    (s.winSel = 0x02#8 →
      t = { s with mem := { s.mem with ein := t.mem.ein }, winIdx := s.winIdx + 1#32 } ∧
      t.mem.ein.length = 2 * s.params.r ∧
      (∀ n, n < s.params.r → t.mem.ein.getD n false =
        if n / 32 = s.winIdx.toNat then x.getLsbD (n % 32) else s.mem.ein.getD n false) ∧
      ∀ n, s.params.r ≤ n → t.mem.ein.getD n false = s.mem.ein.getD n false) ∧
    (s.winSel = 0x03#8 →
      t = { s with mem := { s.mem with ein := t.mem.ein }, winIdx := s.winIdx + 1#32 } ∧
      t.mem.ein.length = 2 * s.params.r ∧
      (∀ n, n < s.params.r → t.mem.ein.getD (s.params.r + n) false =
        if n / 32 = s.winIdx.toNat then x.getLsbD (n % 32) else s.mem.ein.getD (s.params.r + n) false) ∧
      ∀ n, n < s.params.r → t.mem.ein.getD n false = s.mem.ein.getD n false)

/-- R82, R84, R86: a stored key entry is stored whole and sets STEP_READY to 0, whatever value it holds; a dropped write
(past the end, or while the engine is not idle) leaves the key and STEP_READY alone. -/
def Obligations.KeyWritesEndAStepSequence : Prop :=
  ∀ (s : State) (x : Word),
    (s.seq = .idle → s.winSel = 0x00#8 → s.winIdx.toNat < s.params.w →
      busWrite 0x048#12 x s = { s with mem := { s.mem with h0 := s.mem.h0.set s.winIdx.toNat x },
                                       stepReady := false, winIdx := s.winIdx + 1#32 }) ∧
    (s.seq = .idle → s.winSel = 0x01#8 → s.winIdx.toNat < s.params.w →
      busWrite 0x048#12 x s = { s with mem := { s.mem with h1 := s.mem.h1.set s.winIdx.toNat x },
                                       stepReady := false, winIdx := s.winIdx + 1#32 }) ∧
    ((s.winSel = 0x00#8 ∨ s.winSel = 0x01#8) → s.seq ≠ .idle ∨ s.params.w ≤ s.winIdx.toNat →
      (busWrite 0x048#12 x s).mem = s.mem ∧ (busWrite 0x048#12 x s).stepReady = s.stepReady)

/-- R84, R85: a write through a read-only or reserved window, or past the end of a window, only advances WIN_IDX. -/
def Obligations.DroppedWindowWritesOnlyAdvance : Prop :=
  ∀ (s : State) (x : Word), s.seq = .idle →
    (0x05 ≤ s.winSel.toNat ∨
      (s.winSel.toNat < 2 ∧ s.params.w ≤ s.winIdx.toNat) ∨
      (2 ≤ s.winSel.toNat ∧ s.winSel.toNat < 5 ∧ s.params.r ≤ 32 * s.winIdx.toNat)) →
    busWrite 0x048#12 x s = { s with winIdx := s.winIdx + 1#32 }

/-! ### The circulant product and the counters -/

/-- R130: `CP(h, v)[c]` is the XOR over `p in h` of `v[(c − p) mod r]`, said by the parity of a count; the empty support gives
the zero vector. -/
def Obligations.CirculantProductIsTheParityOfShifts : Prop :=
  ∀ (r : Nat) (h : List Nat) (v : List Bool), h.Nodup → (∀ p ∈ h, p < r) → v.length = r →
    (cp r h v).length = r ∧
    (∀ c, c < r → (cp r h v).getD c false =
      decide ((h.filter fun p => v.getD ((c + r - p) % r) false).length % 2 = 1)) ∧
    cp r [] v = List.replicate r false

/-- R131: a position is adjacent to check c iff `(c − j) mod r ∈ h`, and `CP(h, v)[c]` is the parity of `v` over the
positions adjacent to c. -/
def Obligations.CirculantProductReadsAdjacentPositions : Prop :=
  ∀ (r : Nat) (h : List Nat) (v : List Bool) (c : Nat), h.Nodup → (∀ p ∈ h, p < r) → v.length = r → c < r →
    (∀ j, j < r → (adjacent r h j c = true ↔ (c + r - j) % r ∈ h)) ∧
    (cp r h v).getD c false =
      decide (((List.range r).filter fun j => adjacent r h j c && v.getD j false).length % 2 = 1)

/-- R139: linearity, shift equivariance, commutativity of supports, point response. -/
def Obligations.CirculantProductLaws : Prop :=
  ∀ (r k j : Nat) (h g : List Nat) (u v : List Bool), 0 < r → k < r → j < r → h.Nodup → g.Nodup →
    (∀ p ∈ h, p < r) → (∀ p ∈ g, p < r) → u.length = r → v.length = r →
    cp r h (xorV u v) = xorV (cp r h u) (cp r h v) ∧ cp r h (zeroV r) = zeroV r ∧
    cp r h (rot r k v) = rot r k (cp r h v) ∧ rot r k (cp r h v) = cp r (h.map fun p => (p + k) % r) v ∧
    cp r h (indicator r g) = cp r g (indicator r h) ∧
    cp r h (indicator r [j]) = indicator r (h.map fun p => (p + j) % r)

/-- R138: XOR-and-rotate accumulation gives the circulant product bit for bit. -/
def Obligations.RotateAccumulationIsTheProduct : Prop :=
  ∀ (r : Nat) (h : List Nat) (v : List Bool), (∀ p ∈ h, p < r) → v.length = r →
    cp r h v = h.foldl (fun acc p => xorV acc (v.rotate (r - p))) (List.replicate r false)

/-- R151: the counter of position j is the sum of the residual over `(loc(j) + p) mod r`, the popcount of the intersection of
the residual with the checks adjacent to j, and at most the number of those checks. -/
def Obligations.CountersCountUnsatisfiedAdjacentChecks : Prop :=
  ∀ (r : Nat) (h0 h1 : List Nat) (s : List Bool) (j : Nat), h0.Nodup → h1.Nodup → (∀ p ∈ h0, p < r) →
    (∀ p ∈ h1, p < r) → s.length = r → j < 2 * r →
    (upcOf r h0 h1 s).length = 2 * r ∧
    (j < r →
      (upcOf r h0 h1 s).getD j 0 = (h0.filter fun p => s.getD ((j + p) % r) false).length ∧
      (upcOf r h0 h1 s).getD j 0 =
      ((List.range r).filter fun c => adjacent r h0 j c && s.getD c false).length ∧
      (upcOf r h0 h1 s).getD j 0 ≤ h0.length) ∧
    (r ≤ j →
      (upcOf r h0 h1 s).getD j 0 = (h1.filter fun p => s.getD ((j - r + p) % r) false).length ∧
      (upcOf r h0 h1 s).getD j 0 =
      ((List.range r).filter fun c => adjacent r h1 (j - r) c && s.getD c false).length ∧
      (upcOf r h0 h1 s).getD j 0 ≤ h1.length)

/-- R152: `m` is the maximum counter and at most w, `sw` the weight and at most r, and a zero residual has zero counters
and `m = 0`. -/
def Obligations.MaximumCounterAndWeight : Prop :=
  ∀ s : State, s.Inv →
    (∀ j, j < 2 * s.params.r → s.counters.getD j 0 ≤ maxCounter s.counters) ∧
    (∃ j, j < 2 * s.params.r ∧ s.counters.getD j 0 = maxCounter s.counters) ∧
    maxCounter s.counters ≤ s.params.w ∧
    popcount s.mem.res = ((List.range s.params.r).filter fun c => s.mem.res.getD c false).length ∧
    popcount s.mem.res ≤ s.params.r ∧
    (isZero s.mem.res = true →
      (∀ j, j < 2 * s.params.r → s.counters.getD j 0 = 0) ∧ maxCounter s.counters = 0)

/-! ### Errors -/

/-- R133: KeyCheck reports the first entry at fault, H0 before H1 and in entry order, and a key that passes has exactly w
distinct members below r in each block. -/
def Obligations.KeyCheckReportsTheFirstFault : Prop :=
  ∀ s : State, s.mem.wf s.params = true →
    (∀ k, FirstBad s.params.r s.mem.h0 k → keyCheck s = some ⟨.invalidKey, BitVec.ofNat 32 k⟩) ∧
    (∀ k, (∀ j, ¬ BadEntry s.params.r s.mem.h0 j) → FirstBad s.params.r s.mem.h1 k →
      keyCheck s = some ⟨.invalidKey, BitVec.ofNat 32 (2 ^ 31 + k)⟩) ∧
    ((∀ j, ¬ BadEntry s.params.r s.mem.h0 j) → (∀ j, ¬ BadEntry s.params.r s.mem.h1 j) →
      keyCheck s = none ∧
      s.key0.length = s.params.w ∧ s.key0.Nodup ∧ (∀ p ∈ s.key0, p < s.params.r) ∧
      s.key1.length = s.params.w ∧ s.key1.Nodup ∧ ∀ p ∈ s.key1, p < s.params.r)

/-- R191, R192, R194: the five commands that use the key complete with INVALID_KEY when it fails KeyCheck, whatever EIN
holds, and change nothing but the completion fields. -/
def Obligations.InvalidKeyIsRejectedWithoutEffect : Prop :=
  ∀ (s : State) (e : CmdError) (i : Instr), keyCheck s = some e →
    i ∈ [Instr.cprod0, Instr.cprod1, Instr.syndrome, Instr.decode, Instr.decInit] →
    ∃ t, exec i s = .next t ∧ OnlyCompletes s t .invalidKey e.info

/-- R134: SYNDROME on a valid key with an error vector of another weight than t completes with INVALID_ERROR and the weight
observed, and changes nothing but the completion fields. -/
def Obligations.WrongWeightIsRejectedWithoutEffect : Prop :=
  ∀ s : State, KeyValid s →
    popcount (s.mem.ein.take s.params.r) + popcount (s.mem.ein.drop s.params.r) ≠ s.params.t →
    ∃ t, exec .syndrome s = .next t ∧
      OnlyCompletes s t .invalidError (BitVec.ofNat 32
        (popcount (s.mem.ein.take s.params.r) + popcount (s.mem.ein.drop s.params.r)))

/-- R169, R194: DEC_STEP without a prepared state completes with NOT_READY and ERR_INFO 0, whatever key is held, and changes
nothing but the completion fields. -/
def Obligations.UnpreparedStepIsNotReady : Prop :=
  ∀ s : State, s.stepReady = false → ∃ t, exec .decStep s = .next t ∧ OnlyCompletes s t .notReady 0#32

/-- R192, R201: whatever the command, a completion with an error changes nothing but the completion fields, and a completion
without one has ERR_INFO 0. -/
def Obligations.ErrorsArePrecise : Prop :=
  ∀ (i : Instr) (s t : State), exec i s = .next t →
    (t.err ≠ .none → OnlyCompletes s t t.err t.errInfo) ∧ (t.err = .none → t.errInfo = 0#32)

/-! ### The commands -/

/-- R117: NOP completes in every state, and changes nothing but the completion fields. -/
def Obligations.NopOnlyCompletes : Prop :=
  ∀ s : State, ∃ t, exec .nop s = .next t ∧ OnlyCompletes s t .none 0#32

/-- R118: CLEAR completes in every state; it clears the result state and keeps the rest. -/
def Obligations.ClearZeroesTheResultState : Prop :=
  ∀ s : State, ∃ t, exec .clear s = .next t ∧ Completes s t .none 0#32 ∧ KeepsHostSide s t ∧
    t.mem.syn = List.replicate s.params.r false ∧ t.mem.res = List.replicate s.params.r false ∧
    t.mem.eout = List.replicate (2 * s.params.r) false ∧ t.mem.black = List.replicate (2 * s.params.r) false ∧
    t.mem.gray = List.replicate (2 * s.params.r) false ∧ t.mem.upc = List.replicate (2 * s.params.r) 0 ∧
    t.iter = 0#32 ∧ t.lastTau = 0#32 ∧ t.lastMaxUpc = 0#32 ∧ t.lastSynW = 0#32 ∧
    t.success = false ∧ t.stepReady = false ∧ t.wbusy = false ∧ t.resWeight = 0#32

/-- R135, R136, R137, R132: the syndrome commands complete on a valid key (SYNDROME also with weight t), write SYN with the
product or the syndrome, and change nothing else but the completion fields. -/
def Obligations.SyndromeCommandsWriteSyn : Prop :=
  ∀ s : State, KeyValid s →
    (∃ t, exec .cprod0 s = .next t ∧ Completes s t .none 0#32 ∧ KeepsHostSide s t ∧ KeepsDecoder s t ∧
      t.wbusy = s.wbusy ∧ t.mem.syn = cp s.params.r s.key0 (s.mem.ein.take s.params.r)) ∧
    (∃ t, exec .cprod1 s = .next t ∧ Completes s t .none 0#32 ∧ KeepsHostSide s t ∧ KeepsDecoder s t ∧
      t.wbusy = s.wbusy ∧ t.mem.syn = cp s.params.r s.key1 (s.mem.ein.drop s.params.r)) ∧
    (popcount (s.mem.ein.take s.params.r) + popcount (s.mem.ein.drop s.params.r) = s.params.t →
      ∃ t, exec .syndrome s = .next t ∧ Completes s t .none 0#32 ∧ KeepsHostSide s t ∧ KeepsDecoder s t ∧
        t.wbusy = s.wbusy ∧ t.mem.syn = syndromeOf s.params.r s.key0 s.key1 s.mem.ein)

/-- R161, R168: DEC_INIT completes on a valid key with the decoder's initial state. -/
def Obligations.DecInitPreparesTheDecoder : Prop :=
  ∀ s : State, KeyValid s → ∃ t, exec .decInit s = .next t ∧ Completes s t .none 0#32 ∧ KeepsHostSide s t ∧
    t.wbusy = s.wbusy ∧ t.mem.syn = s.mem.syn ∧ t.mem.res = s.mem.syn ∧
    t.mem.eout = List.replicate (2 * s.params.r) false ∧ t.mem.black = List.replicate (2 * s.params.r) false ∧
    t.mem.gray = List.replicate (2 * s.params.r) false ∧ t.mem.upc = List.replicate (2 * s.params.r) 0 ∧
    t.iter = 0#32 ∧ t.lastTau = 0#32 ∧ t.lastMaxUpc = 0#32 ∧ t.lastSynW = 0#32 ∧
    t.success = isZero s.mem.syn ∧ t.stepReady = true

/-- R162, R167: DECODE completes on a valid key having run `Iteration(1), …, Iteration(n)` from DecInit, where n is the first
count at which the residual is zero, or `nbIter` when none up to it is. -/
def Obligations.DecodeRunsToZeroOrTheBound : Prop :=
  ∀ s : State, KeyValid s → ∃ (t : State) (n : Nat) (d : Nat → State),
    exec .decode s = .next t ∧ n ≤ s.params.nbIter ∧
    (d 0).mem.res = s.mem.syn ∧ (d 0).mem.eout = List.replicate (2 * s.params.r) false ∧
    (d 0).mem.black = List.replicate (2 * s.params.r) false ∧
    (d 0).mem.gray = List.replicate (2 * s.params.r) false ∧ (d 0).mem.upc = List.replicate (2 * s.params.r) 0 ∧
    (d 0).lastTau = 0#32 ∧ (d 0).lastMaxUpc = 0#32 ∧ (d 0).lastSynW = 0#32 ∧
    (d 0).mem.h0 = s.mem.h0 ∧ (d 0).mem.h1 = s.mem.h1 ∧ (d 0).params = s.params ∧
    (d 0).keyClass = s.keyClass ∧
    (∀ m, m < n → isZero (d m).mem.res = false ∧
      d (m + 1) = iteration s.params.fns (BitVec.ofNat 32 (m + 1)) (d m)) ∧
    (isZero (d n).mem.res = true ∨ n = s.params.nbIter) ∧
    t.mem.res = (d n).mem.res ∧ t.mem.eout = (d n).mem.eout ∧ t.mem.black = (d n).mem.black ∧
    t.mem.gray = (d n).mem.gray ∧ t.mem.upc = (d n).mem.upc ∧ t.lastTau = (d n).lastTau ∧
    t.lastMaxUpc = (d n).lastMaxUpc ∧ t.lastSynW = (d n).lastSynW ∧
    t.iter.toNat = n ∧ t.success = isZero t.mem.res ∧ t.stepReady = true ∧
    Completes s t .none 0#32 ∧ KeepsHostSide s t ∧ t.wbusy = s.wbusy ∧ t.mem.syn = s.mem.syn

/-- R164, R169: DEC_STEP in a prepared state completes having run one iteration, with no termination test; its number
saturates, and the masks are never computed again after the first step of a sequence. -/
def Obligations.DecStepRunsOneIteration : Prop :=
  ∀ s : State, s.stepReady = true → ∃ (t : State) (k : Word),
    exec .decStep s = .next t ∧ k.toNat = min (s.iter.toNat + 1) (2 ^ 32 - 1) ∧ t.iter = k ∧
    t.mem = (iteration s.params.fns k s).mem ∧ t.lastTau = (iteration s.params.fns k s).lastTau ∧
    t.lastMaxUpc = (iteration s.params.fns k s).lastMaxUpc ∧
    t.lastSynW = (iteration s.params.fns k s).lastSynW ∧
    (s.iter = 0xFFFFFFFF#32 → t.iter = 0xFFFFFFFF#32) ∧
    (s.iter ≠ 0#32 → t.mem.black = s.mem.black ∧ t.mem.gray = s.mem.gray) ∧
    t.success = isZero t.mem.res ∧ t.stepReady = true ∧
    Completes s t .none 0#32 ∧ KeepsHostSide s t ∧ t.wbusy = s.wbusy ∧ t.mem.syn = s.mem.syn

/-- R163: SUCCESS after a decoder command that completes without error. -/
def Obligations.SuccessSaysWhetherResIsZero : Prop :=
  ∀ (i : Instr) (s t : State), i ∈ [Instr.decode, Instr.decInit, Instr.decStep] → exec i s = .next t →
    t.err = .none → (t.success = true ↔ ∀ c, c < t.mem.res.length → t.mem.res.getD c true = false)

/-! ### The iteration, for every choice of the function parameters -/

/-- R153, R154, R155, R159, R160: an iteration with `k ≠ 1` has one pass: it flips every position whose counter exceeds τ,
all at once, updates the residual by their syndrome, records the main pass, and leaves the masks and the rest alone. -/
def Obligations.LaterIterationsFlipAboveThreshold : Prop :=
  ∀ (A : Algo) (k : Word) (s t : State) (u : List Nat) (F : List Bool) (τ : Nat), s.Inv → k ≠ 1#32 →
    t = iteration A k s → u = upcOf s.params.r s.key0 s.key1 s.mem.res →
    τ = A.tau k (popcount s.mem.res) (maxCounter u) s.keyClass →
    F = bits (2 * s.params.r) (fun j => decide (τ < u.getD j 0)) →
    t.mem.eout = xorV s.mem.eout F ∧
    t.mem.res = xorV s.mem.res (syndromeOf s.params.r s.key0 s.key1 F) ∧
    t.mem.black = s.mem.black ∧ t.mem.gray = s.mem.gray ∧ t.mem.upc = u ∧
    t.lastTau.toNat = min τ (2 ^ 32 - 1) ∧ t.lastMaxUpc.toNat = maxCounter u ∧
    t.lastSynW.toNat = popcount s.mem.res ∧
    t = { s with mem := { s.mem with res := t.mem.res, eout := t.mem.eout, upc := u },
                 lastTau := t.lastTau, lastMaxUpc := t.lastMaxUpc, lastSynW := t.lastSynW }

/-- R156, R157, R160: iteration 1 in OVERRIDE mode records the masks and flips `COMBINE(F, B, G)` in its one pass. -/
def Obligations.FirstIterationOverridesTheFlipSet : Prop :=
  ∀ (A : Algo) (s t : State) (u : List Nat) (F B G F1 : List Bool) (τ : Nat), s.Inv → A.mode = .override →
    t = iteration A 1#32 s → u = upcOf s.params.r s.key0 s.key1 s.mem.res →
    τ = A.tau 1#32 (popcount s.mem.res) (maxCounter u) s.keyClass →
    F = bits (2 * s.params.r) (fun j => decide (τ < u.getD j 0)) →
    B = bits (2 * s.params.r) (A.masks u τ s.keyClass).1 → G = bits (2 * s.params.r) (A.masks u τ s.keyClass).2 →
    F1 = bits (2 * s.params.r) (A.combine F B G) →
    t.mem.eout = xorV s.mem.eout F1 ∧
    t.mem.res = xorV s.mem.res (syndromeOf s.params.r s.key0 s.key1 F1) ∧
    t.mem.black = B ∧ t.mem.gray = G ∧ t.mem.upc = u ∧ t.lastTau.toNat = min τ (2 ^ 32 - 1) ∧
    t.lastMaxUpc.toNat = maxCounter u ∧ t.lastSynW.toNat = popcount s.mem.res ∧
    t = { s with mem := { s.mem with res := t.mem.res, eout := t.mem.eout, black := t.mem.black,
                                     gray := t.mem.gray, upc := u },
                 lastTau := t.lastTau, lastMaxUpc := t.lastMaxUpc, lastSynW := t.lastSynW }

/-- R156, R158, R160: iteration 1 in PASSES mode flips F, then the black positions, then the gray ones, whose counters, taken
anew from the residual after the previous flip, exceed MASK_TAU; it records the main pass alone. -/
def Obligations.FirstIterationRunsBlackThenGrayPass : Prop :=
  ∀ (A : Algo) (s t : State) (u u1 u2 : List Nat) (F F1 F2 res1 res2 : List Bool) (B G : Nat → Bool)
    (τ tm1 tm2 : Nat), s.Inv → A.mode = .passes →
    t = iteration A 1#32 s → u = upcOf s.params.r s.key0 s.key1 s.mem.res →
    τ = A.tau 1#32 (popcount s.mem.res) (maxCounter u) s.keyClass →
    F = bits (2 * s.params.r) (fun j => decide (τ < u.getD j 0)) → (B, G) = A.masks u τ s.keyClass →
    res1 = xorV s.mem.res (syndromeOf s.params.r s.key0 s.key1 F) →
    u1 = upcOf s.params.r s.key0 s.key1 res1 → tm1 = A.maskTau (popcount res1) (maxCounter u1) s.keyClass →
    F1 = bits (2 * s.params.r) (fun j => B j && decide (tm1 < u1.getD j 0)) →
    res2 = xorV res1 (syndromeOf s.params.r s.key0 s.key1 F1) →
    u2 = upcOf s.params.r s.key0 s.key1 res2 → tm2 = A.maskTau (popcount res2) (maxCounter u2) s.keyClass →
    F2 = bits (2 * s.params.r) (fun j => G j && decide (tm2 < u2.getD j 0)) →
    t.mem.eout = xorV (xorV (xorV s.mem.eout F) F1) F2 ∧
    t.mem.res = xorV res2 (syndromeOf s.params.r s.key0 s.key1 F2) ∧
    t.mem.black = bits (2 * s.params.r) B ∧ t.mem.gray = bits (2 * s.params.r) G ∧ t.mem.upc = u ∧
    t.lastTau.toNat = min τ (2 ^ 32 - 1) ∧
    t.lastMaxUpc.toNat = maxCounter u ∧ t.lastSynW.toNat = popcount s.mem.res ∧
    t = { s with mem := { s.mem with res := t.mem.res, eout := t.mem.eout, black := t.mem.black,
                                     gray := t.mem.gray, upc := u },
                 lastTau := t.lastTau, lastMaxUpc := t.lastMaxUpc, lastSynW := t.lastSynW }

/-- R155: flipping keeps `RES ⊕ Syn(h0, h1, EOUT)`, so the incremental update is the recomputed one; the empty flip changes
nothing, and flipping a set twice undoes it. -/
def Obligations.FlipIsTheRecomputedResidual : Prop :=
  ∀ (s : State) (F s0 : List Bool), s.Inv → F.length = 2 * s.params.r → s0.length = s.params.r →
    s.mem.res = xorV s0 (syndromeOf s.params.r s.key0 s.key1 s.mem.eout) →
    (Machine.flip F s).mem.res =
      xorV s0 (syndromeOf s.params.r s.key0 s.key1 (Machine.flip F s).mem.eout) ∧
    Machine.flip (List.replicate (2 * s.params.r) false) s = s ∧ Machine.flip F (Machine.flip F s) = s

/-- R170: under a zero residual every counter is 0, so no counter exceeds a threshold and a mask pass flips nothing; it is a
fixed point of every iteration with `k ≠ 1` and of iteration 1 in PASSES mode, and of iteration 1 in OVERRIDE mode iff COMBINE
of the empty set is empty. -/
def Obligations.ZeroResidualIsAFixedPoint : Prop :=
  ∀ (A : Algo) (k : Word) (s t : State) (B G : List Bool), s.Inv → isZero s.mem.res = true →
    t = iteration A k s →
    B = bits (2 * s.params.r) (A.masks (List.replicate (2 * s.params.r) 0) (A.tau 1#32 0 0 s.keyClass) s.keyClass).1 →
    G = bits (2 * s.params.r) (A.masks (List.replicate (2 * s.params.r) 0) (A.tau 1#32 0 0 s.keyClass) s.keyClass).2 →
    (∀ j τ, s.counters.getD j 0 = 0 ∧ ¬ τ < s.counters.getD j 0) ∧ (∀ M, maskPass A M s = s) ∧
    (k ≠ 1#32 ∨ A.mode = .passes → t.mem.res = s.mem.res ∧ t.mem.eout = s.mem.eout) ∧
    (k = 1#32 → A.mode = .override →
      ((t.mem.res = s.mem.res ∧ t.mem.eout = s.mem.eout) ↔
        ∀ j, j < 2 * s.params.r → A.combine (List.replicate (2 * s.params.r) false) B G j = false))

/-! ### Rules of the whole machine -/

/-- R165, as a property of every step. A DECODE or DEC_INIT on a valid key, from any state, and any one that ends without
error, leaves a prepared state whose `RES ⊕ Syn(h0, h1, EOUT)` is SYN, with the key that passed KeyCheck (and with ITER = 0
after DEC_INIT; ITER after DECODE counts its iterations by `Obligations.DecodeRunsToZeroOrTheBound`). A DEC_STEP in a prepared
state keeps it prepared, keeps that vector and the key, and counts itself in ITER, up to saturation. Every other step that
starts and ends prepared keeps the vector, the key and ITER. -/
def Obligations.PreparedStateKeepsItsInputSyndrome : Prop :=
  ∀ s t : State, s.Inv → step s = .next t →
    (EngineTurn s → s.seq = .busy (encode .decode) ∨ s.seq = .busy (encode .decInit) →
      KeyValid s ∨ t.err = .none →
      t.err = .none ∧ t.stepReady = true ∧ t.decoderInput = s.mem.syn ∧ KeyValid t ∧
      t.mem.h0 = s.mem.h0 ∧ t.mem.h1 = s.mem.h1 ∧ (s.seq = .busy (encode .decInit) → t.iter = 0#32)) ∧
    (EngineTurn s → s.seq = .busy (encode .decStep) → s.stepReady = true →
      t.err = .none ∧ t.stepReady = true ∧ t.decoderInput = s.decoderInput ∧
      t.mem.h0 = s.mem.h0 ∧ t.mem.h1 = s.mem.h1 ∧ t.iter.toNat = min (s.iter.toNat + 1) (2 ^ 32 - 1)) ∧
    (s.stepReady = true → t.stepReady = true →
      ¬ (EngineTurn s ∧ ∃ i ∈ [Instr.decode, Instr.decInit, Instr.decStep], s.seq = .busy (encode i)) →
      t.decoderInput = s.decoderInput ∧ t.mem.h0 = s.mem.h0 ∧ t.mem.h1 = s.mem.h1 ∧ t.iter = s.iter)

/-- R172, R163: after DECODE completes without error, `SUCCESS = 1` iff `Syn(h0, h1, EOUT) = SYN`. -/
def Obligations.SuccessMeansTheFlipsExplainTheSyndrome : Prop :=
  ∀ s t : State, s.mem.wf s.params = true → exec .decode s = .next t → t.err = .none →
    (t.success = true ↔ syndromeOf t.params.r t.key0 t.key1 t.mem.eout = t.mem.syn)

/-- R171: DECODE's results are a function of the build, the key, SYN and KEYCLASS. -/
def Obligations.DecodeDependsOnKeySyndromeAndClassAlone : Prop :=
  ∀ s s' t t' : State, s.params = s'.params → s.mem.h0 = s'.mem.h0 → s.mem.h1 = s'.mem.h1 →
    s.mem.syn = s'.mem.syn → s.keyClass = s'.keyClass → KeyValid s →
    exec .decode s = .next t → exec .decode s' = .next t' →
    t.mem.res = t'.mem.res ∧ t.mem.eout = t'.mem.eout ∧ t.mem.black = t'.mem.black ∧
    t.mem.gray = t'.mem.gray ∧ t.mem.upc = t'.mem.upc ∧ t.iter = t'.iter ∧ t.lastTau = t'.lastTau ∧
    t.lastMaxUpc = t'.lastMaxUpc ∧ t.lastSynW = t'.lastSynW ∧ t.resWeight = t'.resWeight ∧
    t.success = t'.success ∧ t.stepReady = t'.stepReady ∧ t.err = t'.err ∧ t.errInfo = t'.errInfo

/-- R140: the order of the entries of H0 and H1 affects no command: KeyCheck's success is the same, and whatever the key, a
command ends the same but for the key stores themselves and, when it rejects the key, ERR_INFO. -/
def Obligations.EntryOrderHasNoEffect : Prop :=
  ∀ (i : Instr) (s : State) (l0 l1 : List Word), l0.Perm s.mem.h0 → l1.Perm s.mem.h1 →
    (KeyValid (s.rekey l0 l1) ↔ KeyValid s) ∧
    ∃ t t', exec i s = .next t ∧ exec i (s.rekey l0 l1) = .next t' ∧
      { t' with errInfo := t.errInfo } = t.rekey l0 l1 ∧ (t.err ≠ .invalidKey → t' = t.rekey l0 l1)

/-- R116, R88, R95: while a command runs no host access touches it: the step ends it (at the engine's turn), or reset
abandons it, or the command, everything it reads and the results it writes are as they were. Of the pending bits and WBUSY,
which the host's own writes move while a command runs (an acknowledge, a dropped write), a write sets no pending bit, and any
other step leaves all three. -/
def Obligations.OnlyCompletionAndResetEndACommand : Prop :=
  ∀ (s t : State) (c : Word), s.rst = false → s.seq = .busy c → step s = .next t →
    (EngineTurn s ∧ t.seq = .idle ∧ t.done = true) ∨
    ((∃ es, s.inputs = .assertRst :: es) ∧ t.seq = .init ∧ t.done = false) ∨
    (t.seq = .busy c ∧ t.params = s.params ∧ t.mem = s.mem ∧ t.iter = s.iter ∧ t.keyClass = s.keyClass ∧
      t.irqEn = s.irqEn ∧ t.stepReady = s.stepReady ∧ t.success = s.success ∧ t.done = s.done ∧ t.err = s.err ∧
      t.errInfo = s.errInfo ∧ t.resWeight = s.resWeight ∧ t.lastTau = s.lastTau ∧
      t.lastMaxUpc = s.lastMaxUpc ∧ t.lastSynW = s.lastSynW ∧
      (t.doneIrq = true → s.doneIrq = true) ∧ (t.errIrq = true → s.errIrq = true) ∧
      ((∀ off v es, s.inputs ≠ .write off v :: es) →
        t.doneIrq = s.doneIrq ∧ t.errIrq = s.errIrq ∧ t.wbusy = s.wbusy))

/-- R115: at its turn the engine completes the command it runs, whatever the word. -/
def Obligations.EveryAcceptedCommandCompletes : Prop :=
  ∀ (s : State) (c : Word), s.rst = false → s.seq = .busy c → EngineTurn s →
    ∃ t, step s = .next t ∧ t.seq = .idle ∧ t.done = true ∧ t.doneIrq = true ∧
      t.resWeight = BitVec.ofNat 32 (popcount t.mem.res)

/-- R196: every completion sets DONE_IRQ, every completion with an error sets ERR_IRQ, and no other event sets either. -/
def Obligations.PendingBitsAreSetOnlyByCompletion : Prop :=
  ∀ s t : State, step s = .next t →
    (∀ c, s.rst = false → s.seq = .busy c → EngineTurn s →
      t.doneIrq = true ∧ (t.err ≠ .none → t.errIrq = true)) ∧
    (s.doneIrq = false ∧ t.doneIrq = true ∨ s.errIrq = false ∧ t.errIrq = true →
      EngineTurn s ∧ s.rst = false ∧ (∃ c, s.seq = .busy c) ∧ t.seq = .idle ∧
      (s.errIrq = false ∧ t.errIrq = true → t.err ≠ .none))

/-- R62: STEP_READY is set by an error-free completion of DEC_INIT or DECODE and by nothing else, cleared by a stored key
write, CLEAR and reset and by nothing else, unchanged by an error, and 0 at reset. -/
def Obligations.StepReadyMovesOnlyAsTheRuleSays : Prop :=
  (∀ p : Params, (State.resetFor p).stepReady = false) ∧
  ∀ s t : State, step s = .next t →
    (s.stepReady = false → t.stepReady = true →
      EngineTurn s ∧ (s.seq = .busy (encode .decInit) ∨ s.seq = .busy (encode .decode)) ∧ t.err = .none) ∧
    (s.stepReady = true → t.stepReady = false →
      (EngineTurn s ∧ s.seq = .busy (encode .clear)) ∨ (∃ es, s.inputs = .assertRst :: es) ∨
      (s.rst = true ∧ ∃ es, s.inputs = .releaseRst :: es) ∨
      (∃ off v es, s.inputs = .write off v :: es ∧ off &&& 0xFFC#12 = 0x048#12 ∧ s.seq = .idle ∧
        (s.winSel = 0x00#8 ∨ s.winSel = 0x01#8) ∧ s.winIdx.toNat < s.params.w)) ∧
    (∀ c, s.rst = false → s.seq = .busy c → EngineTurn s →
      ((c = encode .decInit ∨ c = encode .decode) → t.err = .none → t.stepReady = true) ∧
      (c = encode .clear → t.stepReady = false) ∧ (t.err ≠ .none → t.stepReady = s.stepReady)) ∧
    ((∃ es, s.inputs = .assertRst :: es) → t.stepReady = false) ∧
    (∀ off v es, s.rst = false → s.inputs = .write off v :: es → off &&& 0xFFC#12 = 0x048#12 → s.seq = .idle →
      (s.winSel = 0x00#8 ∨ s.winSel = 0x01#8) → s.winIdx.toNat < s.params.w → t.stepReady = false)

/-! ### Host programs -/

/-- R106, R107: the expansions of the pseudo-statements, and the encoding of transactions. -/
def Obligations.HostProgramsExpandAndEncode : Prop :=
  (∀ i : Instr, (Pseudo.cmd i).expand = [.wr 0x01C#12 (encode i)]) ∧
  (∀ l : String, (Pseudo.poll l).expand = [.label l, .rd 0x020#12 "s", .ifGoto (.bitIs "s" 0 true) l]) ∧
  (∀ (w i : Word) (ds : List Word), (Pseudo.ldwin w i ds).expand =
    [.wr 0x040#12 w, .wr 0x044#12 i] ++ ds.map fun d => .wr 0x048#12 d) ∧
  (∀ (w i : Word) (xs : List String), (Pseudo.rdwin w i xs).expand =
    [.wr 0x040#12 w, .wr 0x044#12 i] ++ xs.map fun x => .rd 0x048#12 x) ∧
  Pseudo.ack.expand = [.wr 0x024#12 0x7#32] ∧
  (Txn.write 0x01C#12 0x00000004#32).render = "W 01C 00000004".toList ∧
  (Txn.read 0x020#12 0x0000000E#32).render = "R 020 -> 0000000E".toList

/-- R105: a host line acts on the block only by its bus access; a read's value goes to its variable, and host control flow
never touches the bus. The form of the conditions, and that waiting for `irq` (spec/70_reset_and_hazards.md R224) is a line of
its own, are the model's choice (log entry 15); so is where a jump goes whose label the program does not define, or defines
twice: to its end, or to the first (log entry 18). -/
def Obligations.HostLinesActByBusAccessesAlone : Prop :=
  ∀ (x : Session) (off : BitVec 12) (v : Word) (y l : String) (c : Cond), x.machine.rst = false →
    (x.prog[x.line]? = some (.wr off v) → ∃ x', x.hostTurn = .next x' ∧
      x'.machine = busWrite off v x.machine ∧ x'.line = x.line + 1 ∧ x'.vars = x.vars ∧
      x'.trace = x.trace ++ [.write off v]) ∧
    (x.prog[x.line]? = some (.rd off y) → ∃ x', x.hostTurn = .next x' ∧
      x'.machine = busRead off x.machine ∧ x'.line = x.line + 1 ∧
      lookupVar x'.vars y = regRead off x.machine ∧ (∀ z, z ≠ y → lookupVar x'.vars z = lookupVar x.vars z) ∧
      x'.trace = x.trace ++ [.read off (regRead off x.machine)]) ∧
    (x.prog[x.line]? = some (.ifGoto c l) → ∃ x', x.hostTurn = .next x' ∧
      x'.machine = x.machine ∧ x'.trace = x.trace ∧ x'.vars = x.vars ∧
      (c.holds x.vars = false → x'.line = x.line + 1) ∧
      (c.holds x.vars = true → x'.line = x.prog.idxOf (.label l))) ∧
    (x.prog[x.line]? = some (.label l) ∨ x.prog[x.line]? = some (.comment l) →
      x.hostTurn = .next { x with line := x.line + 1 }) ∧
    (x.prog[x.line]? = some .waitIrq →
      (x.machine.irq = true → x.hostTurn = .next { x with line := x.line + 1 }) ∧
      (x.machine.irq = false → x.hostTurn = .next x))
end

