-- ==== Sys2Proof/Laws/Bits.lean ====
section
/-! SUPPORT. The small lemmas of bit vectors, circulant products and counters: lengths, bits and bounds. -/

namespace Sys2Proof.Machine

@[simp] theorem length_bits (n : Nat) (f : Nat → Bool) : (bits n f).length = n := by simp [bits]

theorem bit_eq_getElem {v : List Bool} {i : Nat} (h : i < v.length) : bit v i = v[i] := by
  simp [bit, List.getD, h]

theorem bit_of_length_le {v : List Bool} {i : Nat} (h : v.length ≤ i) : bit v i = false := by
  simp [bit, List.getD, h]

theorem bit_bits (n : Nat) (f : Nat → Bool) (i : Nat) : bit (bits n f) i = (decide (i < n) && f i) := by
  by_cases h : i < n
  · rw [bit_eq_getElem (by simpa using h)]; simp [bits, h]
  · rw [bit_of_length_le (by simpa using h)]; simp [h]

@[simp] theorem bit_bits_of_lt {n i : Nat} (f : Nat → Bool) (h : i < n) : bit (bits n f) i = f i := by
  simp [bit_bits, h]

/-- Two vectors of one length with the same bits are equal (R14). -/
theorem ext_bit {u v : List Bool} (hl : u.length = v.length) (h : ∀ i, i < u.length → bit u i = bit v i) :
    u = v := by
  refine List.ext_getElem hl fun i h₁ h₂ => ?_
  rw [← bit_eq_getElem h₁, ← bit_eq_getElem h₂, h i h₁]

/-- A vector is the vector of its bits. -/
theorem bits_bit (v : List Bool) : bits v.length (bit v) = v :=
  ext_bit (by simp) fun i h => bit_bits_of_lt _ (by simpa using h)

theorem length_xorV (u v : List Bool) : (xorV u v).length = min u.length v.length := by simp [xorV]

@[simp] theorem length_xorV_of_eq {u v : List Bool} (h : v.length = u.length) :
    (xorV u v).length = u.length := by simp [length_xorV, h]

theorem bit_xorV {u v : List Bool} (h : v.length = u.length) (i : Nat) :
    bit (xorV u v) i = xor (bit u i) (bit v i) := by
  by_cases hi : i < u.length
  · rw [bit_eq_getElem (by simpa [length_xorV, h] using hi), bit_eq_getElem hi, bit_eq_getElem (h ▸ hi)]
    simp [xorV]
  · rw [bit_of_length_le (by simp [length_xorV]; omega), bit_of_length_le (v := u) (by omega),
      bit_of_length_le (v := v) (by omega)]
    rfl

@[simp] theorem length_zeroV (n : Nat) : (zeroV n).length = n := by simp [zeroV]

@[simp] theorem bit_zeroV (n i : Nat) : bit (zeroV n) i = false := by
  by_cases h : i < n
  · rw [bit_eq_getElem (by simpa using h)]; simp [zeroV]
  · exact bit_of_length_le (by simpa using h)

theorem isZero_iff (v : List Bool) : isZero v = true ↔ v = zeroV v.length := by
  simp [isZero, zeroV, List.eq_replicate_iff]

theorem isZero_iff_bit (v : List Bool) : isZero v = true ↔ ∀ i, bit v i = false := by
  constructor
  · intro h i
    rw [(isZero_iff v).1 h]; simp
  · intro h
    exact (isZero_iff v).2 (ext_bit (by simp) fun i _ => by simp [h i])

@[simp] theorem isZero_zeroV (n : Nat) : isZero (zeroV n) = true := by simp [isZero_iff]

@[simp] theorem popcount_zeroV (n : Nat) : popcount (zeroV n) = 0 := by
  simp [popcount, zeroV, List.count_replicate]

theorem popcount_le_length (v : List Bool) : popcount v ≤ v.length := List.count_le_length

theorem xorV_comm (u v : List Bool) : xorV u v = xorV v u :=
  List.zipWith_comm_of_comm Bool.xor_comm

theorem xorV_assoc {n : Nat} {u v x : List Bool} (hu : u.length = n) (hv : v.length = n)
    (hx : x.length = n) : xorV (xorV u v) x = xorV u (xorV v x) := by
  have h1 : v.length = u.length := hv.trans hu.symm
  have h2 : x.length = v.length := hx.trans hv.symm
  refine ext_bit (by simp [hu, hv, hx]) fun i _ => ?_
  rw [bit_xorV (by simp [hu, hv, hx]), bit_xorV h1,
    bit_xorV (by simp [hu, hv, hx]), bit_xorV h2, Bool.xor_assoc]

theorem xorV_self (v : List Bool) : xorV v v = zeroV v.length :=
  ext_bit (by simp) fun i _ => by rw [bit_xorV rfl]; simp

theorem xorV_zeroV {n : Nat} {v : List Bool} (h : v.length = n) : xorV v (zeroV n) = v :=
  ext_bit (by simp [h]) fun i _ => by rw [bit_xorV (by simp [h])]; simp

@[simp] theorem length_half0 {r : Nat} {e : List Bool} (h : e.length = 2 * r) : (half0 r e).length = r := by
  simp [half0, h]; omega

@[simp] theorem length_half1 {r : Nat} {e : List Bool} (h : e.length = 2 * r) : (half1 r e).length = r := by
  simp [half1, h]; omega

theorem bit_half0 (r : Nat) (e : List Bool) (i : Nat) : bit (half0 r e) i = (decide (i < r) && bit e i) := by
  by_cases h : i < r
  · simp [bit, half0, List.getD, h]
  · simp [bit, half0, List.getD, h]

theorem bit_half1 (r : Nat) (e : List Bool) (i : Nat) : bit (half1 r e) i = bit e (r + i) := by
  simp [bit, half1, List.getD, List.getElem?_drop]

@[simp] theorem half_append (r : Nat) (e : List Bool) : half0 r e ++ half1 r e = e := List.take_append_drop r e

theorem half0_xorV (r : Nat) (u v : List Bool) : half0 r (xorV u v) = xorV (half0 r u) (half0 r v) := by
  simp [half0, xorV, List.take_zipWith]

theorem half1_xorV (r : Nat) (u v : List Bool) : half1 r (xorV u v) = xorV (half1 r u) (half1 r v) := by
  simp [half1, xorV, List.drop_zipWith]

theorem half0_zeroV (r : Nat) : half0 r (zeroV (2 * r)) = zeroV r := by
  simp [half0, zeroV, List.take_replicate]; omega

theorem half1_zeroV (r : Nat) : half1 r (zeroV (2 * r)) = zeroV r := by
  simp [half1, zeroV, List.drop_replicate]; omega

@[simp] theorem length_unpackWord (v : List Bool) (i : Nat) (x : Word) :
    (unpackWord v i x).length = v.length := by simp [unpackWord]

theorem getLsbD_packWord (v : List Bool) (i b : Nat) :
    (packWord v i).getLsbD b = (decide (b < 32) && bit v (32 * i + b)) := by
  by_cases h : b < 32 <;> simp [packWord, BitVec.getLsbD_ofFnLE, h]

theorem subMod_lt {r : Nat} (hr : 0 < r) (c p : Nat) : subMod r c p < r := by
  have h := Int.emod_lt_of_pos ((c : Int) - p) (b := (r : Int)) (by exact_mod_cast hr)
  have h' := Int.emod_nonneg ((c : Int) - p) (b := (r : Int)) (by exact_mod_cast hr.ne')
  simp only [subMod]; omega

/-- `(c − p) mod r` of naturals below r, without integers (R15). -/
theorem subMod_eq {r c p : Nat} (hp : p < r) : subMod r c p = (c + (r - p)) % r := by
  have h : ((c : Int) - p) % r = ((c + (r - p) : Nat) : Int) % r := by
    rw [show ((c + (r - p) : Nat) : Int) = (c : Int) - p + r by omega, Int.add_emod_right]
  rw [subMod, h]; norm_cast

@[simp] theorem length_cp (r : Nat) (h : List Nat) (v : List Bool) : (cp r h v).length = r := by simp [cp]

theorem bit_cp {r : Nat} (h : List Nat) (v : List Bool) {c : Nat} (hc : c < r) :
    bit (cp r h v) c = parity (h.map fun p => bit v (subMod r c p)) := bit_bits_of_lt _ hc

@[simp] theorem length_syndromeOf (r : Nat) (h0 h1 : List Nat) (e : List Bool) :
    (syndromeOf r h0 h1 e).length = r := by simp [syndromeOf]

@[simp] theorem length_upcOf (r : Nat) (h0 h1 : List Nat) (s : List Bool) :
    (upcOf r h0 h1 s).length = 2 * r := by simp [upcOf]

theorem getD_upcOf {r : Nat} (h0 h1 : List Nat) (s : List Bool) {j : Nat} (hj : j < 2 * r) :
    (upcOf r h0 h1 s).getD j 0 = upcAt r h0 h1 s j := by simp [upcOf, List.getD, hj]

@[simp] theorem length_flipSet (r : Nat) (u : List Nat) (τ : Nat) : (flipSet r u τ).length = 2 * r := by
  simp [flipSet]

@[simp] theorem length_maskedFlipSet (r : Nat) (M : List Bool) (u : List Nat) (tm : Nat) :
    (maskedFlipSet r M u tm).length = 2 * r := by simp [maskedFlipSet]

theorem length_keySet_le (entries : List Word) : (keySet entries).length ≤ entries.length := by
  simpa [keySet] using (List.dedup_sublist (entries.map BitVec.toNat)).length_le

theorem nodup_keySet (entries : List Word) : (keySet entries).Nodup := List.nodup_dedup _

/-- A counter is at most the number of key entries (R151). -/
theorem upcAt_le {r w : Nat} {h0 h1 : List Nat} (h0l : h0.length ≤ w) (h1l : h1.length ≤ w)
    (s : List Bool) (j : Nat) : upcAt r h0 h1 s j ≤ w := by
  refine List.countP_le_length.trans ?_
  unfold blockSet; split <;> assumption

end Sys2Proof.Machine
end

