-- ==== Sys2Proof/Laws/Circulant.lean ====
section
/-! SUPPORT. What later proofs need of circulant products, syndromes and counters: parity as a count, `subMod` as the solution of
a congruence, linearity, and independence of the order of a support. -/

namespace Sys2Proof.Machine

/-- The parity of a list of bits is that of the count of its ones. -/
theorem parity_map_eq {α : Type} (l : List α) (f : α → Bool) :
    parity (l.map f) = decide ((l.filter f).length % 2 = 1) := by
  induction l with
  | nil => simp [parity]
  | cons a l ih =>
    have : parity ((a :: l).map f) = xor (f a) (parity (l.map f)) := rfl
    rw [this, ih]
    cases h : f a <;> simp [h]
    rcases Nat.mod_two_eq_zero_or_one (l.filter f).length with h | h <;> simp [h, Nat.add_mod]

theorem parity_map_xor {α : Type} (l : List α) (f g : α → Bool) :
    parity (l.map fun a => xor (f a) (g a)) = xor (parity (l.map f)) (parity (l.map g)) := by
  induction l with
  | nil => rfl
  | cons a l ih =>
    show xor _ (parity _) = xor (xor _ (parity _)) (xor _ (parity _))
    rw [ih]
    generalize parity (l.map f) = z, parity (l.map g) = w
    show xor (xor (f a) (g a)) _ = _
    cases f a <;> cases g a <;> cases z <;> cases w <;> rfl

/-- `(c − p) mod r` is the one position below r that p shifts to c (R131). -/
theorem subMod_eq_iff {r c p x : Nat} (hc : c < r) (hp : p < r) (hx : x < r) :
    subMod r c p = x ↔ (x + p) % r = c := by
  rw [subMod_eq hp]
  constructor
  · rintro rfl
    rw [Nat.add_mod, Nat.mod_mod, ← Nat.add_mod, show c + (r - p) + p = c + r by omega]
    simp [Nat.mod_eq_of_lt hc]
  · rintro rfl
    rw [Nat.mod_add_mod, show x + p + (r - p) = x + r by omega]
    simp [Nat.mod_eq_of_lt hx]

theorem cp_xorV (r : Nat) (h : List Nat) {u v : List Bool} (hu : u.length = r) (hv : v.length = r) :
    cp r h (xorV u v) = xorV (cp r h u) (cp r h v) := by
  refine ext_bit (by simp) fun c hc => ?_
  have hc' : c < r := by simpa using hc
  rw [bit_xorV (by simp), bit_cp _ _ hc', bit_cp _ _ hc', bit_cp _ _ hc', ← parity_map_xor]
  congr 2; funext p
  rw [bit_xorV (by omega)]

theorem cp_zeroV (r : Nat) (h : List Nat) : cp r h (zeroV r) = zeroV r := by
  refine ext_bit (by simp) fun c hc => ?_
  rw [bit_cp _ _ (by simpa using hc)]
  simp only [bit_zeroV]
  clear hc
  induction h with
  | nil => rfl
  | cons a l ih => show xor false (parity _) = false; rw [ih]; rfl

theorem syndromeOf_xorV (r : Nat) (h0 h1 : List Nat) {u v : List Bool} (hu : u.length = 2 * r)
    (hv : v.length = 2 * r) :
    syndromeOf r h0 h1 (xorV u v) = xorV (syndromeOf r h0 h1 u) (syndromeOf r h0 h1 v) := by
  unfold syndromeOf
  rw [half0_xorV, half1_xorV, cp_xorV r h0 (length_half0 hu) (length_half0 hv),
    cp_xorV r h1 (length_half1 hu) (length_half1 hv)]
  have la := length_cp r h0 (half0 r u)
  have lb := length_cp r h0 (half0 r v)
  have lc := length_cp r h1 (half1 r u)
  have ld := length_cp r h1 (half1 r v)
  rw [xorV_assoc la lb (by simp), xorV_assoc la lc (by simp), ← xorV_assoc lb lc ld, ← xorV_assoc lc lb ld,
    xorV_comm (cp r h0 (half0 r v)) (cp r h1 (half1 r u))]

theorem syndromeOf_zeroV (r : Nat) (h0 h1 : List Nat) : syndromeOf r h0 h1 (zeroV (2 * r)) = zeroV r := by
  unfold syndromeOf
  rw [half0_zeroV, half1_zeroV, cp_zeroV, cp_zeroV, xorV_self, length_zeroV]

theorem cp_perm (r : Nat) {h h' : List Nat} (p : h.Perm h') (v : List Bool) : cp r h v = cp r h' v := by
  refine ext_bit (by simp) fun c hc => ?_
  rw [bit_cp _ _ (by simpa using hc), bit_cp _ _ (by simpa using hc), parity_map_eq, parity_map_eq,
    (p.filter _).length_eq]

theorem upcOf_perm (r : Nat) {a a' b b' : List Nat} (p : a.Perm a') (q : b.Perm b') (v : List Bool) :
    upcOf r a b v = upcOf r a' b' v := by
  unfold upcOf
  congr 1; funext j
  unfold upcAt blockSet
  split
  · exact p.countP_eq _
  · exact q.countP_eq _

theorem keySet_perm {l l' : List Word} (h : l.Perm l') : (keySet l).Perm (keySet l') := (h.map _).dedup

end Sys2Proof.Machine
end

