-- ==== Sys2Proof/Laws/State.lean ====
section
/-! SUPPORT. The small lemmas of the state's updates: for each named update, what it writes (`…_writes`) and every field it
leaves alone (`…_keeps`), true by `rfl` and in the simp set, so that no later proof unfolds a record update. -/

namespace Sys2Proof.Machine

@[simp] theorem completionFlags_writes (s : State) :
    (completionFlags s).resWeight = BitVec.ofNat 32 (popcount s.mem.res) ∧ (completionFlags s).done = true ∧
    (completionFlags s).doneIrq = true ∧ (completionFlags s).errIrq = (s.errIrq || decide (s.err ≠ .none)) ∧
    (completionFlags s).seq = .idle :=
  ⟨rfl, rfl, rfl, rfl, rfl⟩

@[simp] theorem completionFlags_keeps (s : State) :
    (completionFlags s).mem = s.mem ∧ (completionFlags s).params = s.params ∧
    (completionFlags s).iter = s.iter ∧ (completionFlags s).lastTau = s.lastTau ∧
    (completionFlags s).lastMaxUpc = s.lastMaxUpc ∧ (completionFlags s).lastSynW = s.lastSynW ∧
    (completionFlags s).errInfo = s.errInfo ∧ (completionFlags s).irqEn = s.irqEn ∧
    (completionFlags s).keyClass = s.keyClass ∧ (completionFlags s).err = s.err ∧
    (completionFlags s).winSel = s.winSel ∧ (completionFlags s).winIdx = s.winIdx ∧
    (completionFlags s).success = s.success ∧ (completionFlags s).stepReady = s.stepReady ∧
    (completionFlags s).wbusy = s.wbusy ∧ (completionFlags s).rst = s.rst ∧
    (completionFlags s).inputs = s.inputs ∧ (completionFlags s).rdata = s.rdata ∧
    (completionFlags s).fresh = s.fresh :=
  ⟨rfl, rfl, rfl, rfl, rfl, rfl, rfl, rfl, rfl, rfl, rfl, rfl, rfl, rfl, rfl, rfl, rfl, rfl, rfl⟩

@[simp] theorem completeOk_writes (s : State) :
    (completeOk s).err = .none ∧ (completeOk s).errInfo = 0#32 ∧
    (completeOk s).resWeight = BitVec.ofNat 32 (popcount s.mem.res) ∧ (completeOk s).done = true ∧
    (completeOk s).doneIrq = true ∧ (completeOk s).errIrq = (s.errIrq || decide (ErrCode.none ≠ .none)) ∧
    (completeOk s).seq = .idle :=
  ⟨rfl, rfl, rfl, rfl, rfl, rfl, rfl⟩

@[simp] theorem completeOk_keeps (s : State) :
    (completeOk s).mem = s.mem ∧ (completeOk s).params = s.params ∧ (completeOk s).iter = s.iter ∧
    (completeOk s).lastTau = s.lastTau ∧ (completeOk s).lastMaxUpc = s.lastMaxUpc ∧
    (completeOk s).lastSynW = s.lastSynW ∧ (completeOk s).irqEn = s.irqEn ∧
    (completeOk s).keyClass = s.keyClass ∧ (completeOk s).winSel = s.winSel ∧
    (completeOk s).winIdx = s.winIdx ∧ (completeOk s).success = s.success ∧
    (completeOk s).stepReady = s.stepReady ∧ (completeOk s).wbusy = s.wbusy ∧ (completeOk s).rst = s.rst ∧
    (completeOk s).inputs = s.inputs ∧ (completeOk s).rdata = s.rdata ∧ (completeOk s).fresh = s.fresh :=
  ⟨rfl, rfl, rfl, rfl, rfl, rfl, rfl, rfl, rfl, rfl, rfl, rfl, rfl, rfl, rfl, rfl, rfl⟩

@[simp] theorem raiseCmdError_writes (e : CmdError) (s : State) :
    (raiseCmdError e s).err = e.code ∧ (raiseCmdError e s).errInfo = e.info ∧
    (raiseCmdError e s).resWeight = BitVec.ofNat 32 (popcount s.mem.res) ∧ (raiseCmdError e s).done = true ∧
    (raiseCmdError e s).doneIrq = true ∧ (raiseCmdError e s).errIrq = (s.errIrq || decide (e.code ≠ .none)) ∧
    (raiseCmdError e s).seq = .idle :=
  ⟨rfl, rfl, rfl, rfl, rfl, rfl, rfl⟩

@[simp] theorem raiseCmdError_keeps (e : CmdError) (s : State) :
    (raiseCmdError e s).mem = s.mem ∧ (raiseCmdError e s).params = s.params ∧
    (raiseCmdError e s).iter = s.iter ∧ (raiseCmdError e s).lastTau = s.lastTau ∧
    (raiseCmdError e s).lastMaxUpc = s.lastMaxUpc ∧ (raiseCmdError e s).lastSynW = s.lastSynW ∧
    (raiseCmdError e s).irqEn = s.irqEn ∧ (raiseCmdError e s).keyClass = s.keyClass ∧
    (raiseCmdError e s).winSel = s.winSel ∧ (raiseCmdError e s).winIdx = s.winIdx ∧
    (raiseCmdError e s).success = s.success ∧ (raiseCmdError e s).stepReady = s.stepReady ∧
    (raiseCmdError e s).wbusy = s.wbusy ∧ (raiseCmdError e s).rst = s.rst ∧
    (raiseCmdError e s).inputs = s.inputs ∧ (raiseCmdError e s).rdata = s.rdata ∧
    (raiseCmdError e s).fresh = s.fresh :=
  ⟨rfl, rfl, rfl, rfl, rfl, rfl, rfl, rfl, rfl, rfl, rfl, rfl, rfl, rfl, rfl, rfl, rfl⟩

@[simp] theorem acknowledge_writes (v : Word) (s : State) :
    (acknowledge v s).doneIrq = (s.doneIrq && !v.getLsbD 0) ∧
    (acknowledge v s).errIrq = (s.errIrq && !v.getLsbD 1) ∧
    (acknowledge v s).wbusy = (s.wbusy && !v.getLsbD 2) :=
  ⟨rfl, rfl, rfl⟩

@[simp] theorem acknowledge_keeps (v : Word) (s : State) :
    (acknowledge v s).mem = s.mem ∧ (acknowledge v s).params = s.params ∧ (acknowledge v s).iter = s.iter ∧
    (acknowledge v s).lastTau = s.lastTau ∧ (acknowledge v s).lastMaxUpc = s.lastMaxUpc ∧
    (acknowledge v s).lastSynW = s.lastSynW ∧ (acknowledge v s).resWeight = s.resWeight ∧
    (acknowledge v s).errInfo = s.errInfo ∧ (acknowledge v s).irqEn = s.irqEn ∧
    (acknowledge v s).keyClass = s.keyClass ∧ (acknowledge v s).err = s.err ∧
    (acknowledge v s).winSel = s.winSel ∧ (acknowledge v s).winIdx = s.winIdx ∧ (acknowledge v s).seq = s.seq ∧
    (acknowledge v s).done = s.done ∧ (acknowledge v s).success = s.success ∧
    (acknowledge v s).stepReady = s.stepReady ∧ (acknowledge v s).rst = s.rst ∧
    (acknowledge v s).inputs = s.inputs ∧ (acknowledge v s).rdata = s.rdata ∧
    (acknowledge v s).fresh = s.fresh :=
  ⟨rfl, rfl, rfl, rfl, rfl, rfl, rfl, rfl, rfl, rfl, rfl, rfl, rfl, rfl, rfl, rfl, rfl, rfl, rfl, rfl, rfl⟩

@[simp] theorem bumpIdx_writes (s : State) :
    (s.bumpIdx).winIdx = s.winIdx + 1#32 :=
  rfl

@[simp] theorem bumpIdx_keeps (s : State) :
    (s.bumpIdx).mem = s.mem ∧ (s.bumpIdx).params = s.params ∧ (s.bumpIdx).iter = s.iter ∧
    (s.bumpIdx).lastTau = s.lastTau ∧ (s.bumpIdx).lastMaxUpc = s.lastMaxUpc ∧
    (s.bumpIdx).lastSynW = s.lastSynW ∧ (s.bumpIdx).resWeight = s.resWeight ∧ (s.bumpIdx).errInfo = s.errInfo ∧
    (s.bumpIdx).irqEn = s.irqEn ∧ (s.bumpIdx).keyClass = s.keyClass ∧ (s.bumpIdx).err = s.err ∧
    (s.bumpIdx).doneIrq = s.doneIrq ∧ (s.bumpIdx).errIrq = s.errIrq ∧ (s.bumpIdx).winSel = s.winSel ∧
    (s.bumpIdx).seq = s.seq ∧ (s.bumpIdx).done = s.done ∧ (s.bumpIdx).success = s.success ∧
    (s.bumpIdx).stepReady = s.stepReady ∧ (s.bumpIdx).wbusy = s.wbusy ∧ (s.bumpIdx).rst = s.rst ∧
    (s.bumpIdx).inputs = s.inputs ∧ (s.bumpIdx).rdata = s.rdata ∧ (s.bumpIdx).fresh = s.fresh :=
  ⟨rfl, rfl, rfl, rfl, rfl, rfl, rfl, rfl, rfl, rfl, rfl, rfl, rfl, rfl, rfl, rfl, rfl, rfl, rfl, rfl, rfl,
    rfl, rfl⟩

@[simp] theorem setSyn_writes (s : State) (v : List Bool) :
    (s.setSyn v).mem.syn = v :=
  rfl

@[simp] theorem setSyn_keeps (s : State) (v : List Bool) :
    (s.setSyn v).mem.h0 = s.mem.h0 ∧ (s.setSyn v).mem.h1 = s.mem.h1 ∧ (s.setSyn v).mem.ein = s.mem.ein ∧
    (s.setSyn v).mem.res = s.mem.res ∧ (s.setSyn v).mem.eout = s.mem.eout ∧
    (s.setSyn v).mem.black = s.mem.black ∧ (s.setSyn v).mem.gray = s.mem.gray ∧
    (s.setSyn v).mem.upc = s.mem.upc ∧ (s.setSyn v).params = s.params ∧ (s.setSyn v).iter = s.iter ∧
    (s.setSyn v).lastTau = s.lastTau ∧ (s.setSyn v).lastMaxUpc = s.lastMaxUpc ∧
    (s.setSyn v).lastSynW = s.lastSynW ∧ (s.setSyn v).resWeight = s.resWeight ∧
    (s.setSyn v).errInfo = s.errInfo ∧ (s.setSyn v).irqEn = s.irqEn ∧ (s.setSyn v).keyClass = s.keyClass ∧
    (s.setSyn v).err = s.err ∧ (s.setSyn v).doneIrq = s.doneIrq ∧ (s.setSyn v).errIrq = s.errIrq ∧
    (s.setSyn v).winSel = s.winSel ∧ (s.setSyn v).winIdx = s.winIdx ∧ (s.setSyn v).seq = s.seq ∧
    (s.setSyn v).done = s.done ∧ (s.setSyn v).success = s.success ∧ (s.setSyn v).stepReady = s.stepReady ∧
    (s.setSyn v).wbusy = s.wbusy ∧ (s.setSyn v).rst = s.rst ∧ (s.setSyn v).inputs = s.inputs ∧
    (s.setSyn v).rdata = s.rdata ∧ (s.setSyn v).fresh = s.fresh :=
  ⟨rfl, rfl, rfl, rfl, rfl, rfl, rfl, rfl, rfl, rfl, rfl, rfl, rfl, rfl, rfl, rfl, rfl, rfl, rfl, rfl, rfl,
    rfl, rfl, rfl, rfl, rfl, rfl, rfl, rfl, rfl, rfl⟩

@[simp] theorem setRes_writes (s : State) (v : List Bool) :
    (s.setRes v).mem.res = v :=
  rfl

@[simp] theorem setRes_keeps (s : State) (v : List Bool) :
    (s.setRes v).mem.h0 = s.mem.h0 ∧ (s.setRes v).mem.h1 = s.mem.h1 ∧ (s.setRes v).mem.ein = s.mem.ein ∧
    (s.setRes v).mem.syn = s.mem.syn ∧ (s.setRes v).mem.eout = s.mem.eout ∧
    (s.setRes v).mem.black = s.mem.black ∧ (s.setRes v).mem.gray = s.mem.gray ∧
    (s.setRes v).mem.upc = s.mem.upc ∧ (s.setRes v).params = s.params ∧ (s.setRes v).iter = s.iter ∧
    (s.setRes v).lastTau = s.lastTau ∧ (s.setRes v).lastMaxUpc = s.lastMaxUpc ∧
    (s.setRes v).lastSynW = s.lastSynW ∧ (s.setRes v).resWeight = s.resWeight ∧
    (s.setRes v).errInfo = s.errInfo ∧ (s.setRes v).irqEn = s.irqEn ∧ (s.setRes v).keyClass = s.keyClass ∧
    (s.setRes v).err = s.err ∧ (s.setRes v).doneIrq = s.doneIrq ∧ (s.setRes v).errIrq = s.errIrq ∧
    (s.setRes v).winSel = s.winSel ∧ (s.setRes v).winIdx = s.winIdx ∧ (s.setRes v).seq = s.seq ∧
    (s.setRes v).done = s.done ∧ (s.setRes v).success = s.success ∧ (s.setRes v).stepReady = s.stepReady ∧
    (s.setRes v).wbusy = s.wbusy ∧ (s.setRes v).rst = s.rst ∧ (s.setRes v).inputs = s.inputs ∧
    (s.setRes v).rdata = s.rdata ∧ (s.setRes v).fresh = s.fresh :=
  ⟨rfl, rfl, rfl, rfl, rfl, rfl, rfl, rfl, rfl, rfl, rfl, rfl, rfl, rfl, rfl, rfl, rfl, rfl, rfl, rfl, rfl,
    rfl, rfl, rfl, rfl, rfl, rfl, rfl, rfl, rfl, rfl⟩

@[simp] theorem setSuccess_writes (s : State) (b : Bool) :
    (s.setSuccess b).success = b :=
  rfl

@[simp] theorem setSuccess_keeps (s : State) (b : Bool) :
    (s.setSuccess b).mem = s.mem ∧ (s.setSuccess b).params = s.params ∧ (s.setSuccess b).iter = s.iter ∧
    (s.setSuccess b).lastTau = s.lastTau ∧ (s.setSuccess b).lastMaxUpc = s.lastMaxUpc ∧
    (s.setSuccess b).lastSynW = s.lastSynW ∧ (s.setSuccess b).resWeight = s.resWeight ∧
    (s.setSuccess b).errInfo = s.errInfo ∧ (s.setSuccess b).irqEn = s.irqEn ∧
    (s.setSuccess b).keyClass = s.keyClass ∧ (s.setSuccess b).err = s.err ∧
    (s.setSuccess b).doneIrq = s.doneIrq ∧ (s.setSuccess b).errIrq = s.errIrq ∧
    (s.setSuccess b).winSel = s.winSel ∧ (s.setSuccess b).winIdx = s.winIdx ∧ (s.setSuccess b).seq = s.seq ∧
    (s.setSuccess b).done = s.done ∧ (s.setSuccess b).stepReady = s.stepReady ∧
    (s.setSuccess b).wbusy = s.wbusy ∧ (s.setSuccess b).rst = s.rst ∧ (s.setSuccess b).inputs = s.inputs ∧
    (s.setSuccess b).rdata = s.rdata ∧ (s.setSuccess b).fresh = s.fresh :=
  ⟨rfl, rfl, rfl, rfl, rfl, rfl, rfl, rfl, rfl, rfl, rfl, rfl, rfl, rfl, rfl, rfl, rfl, rfl, rfl, rfl, rfl,
    rfl, rfl⟩

@[simp] theorem setStepReady_writes (s : State) (b : Bool) :
    (s.setStepReady b).stepReady = b :=
  rfl

@[simp] theorem setStepReady_keeps (s : State) (b : Bool) :
    (s.setStepReady b).mem = s.mem ∧ (s.setStepReady b).params = s.params ∧ (s.setStepReady b).iter = s.iter ∧
    (s.setStepReady b).lastTau = s.lastTau ∧ (s.setStepReady b).lastMaxUpc = s.lastMaxUpc ∧
    (s.setStepReady b).lastSynW = s.lastSynW ∧ (s.setStepReady b).resWeight = s.resWeight ∧
    (s.setStepReady b).errInfo = s.errInfo ∧ (s.setStepReady b).irqEn = s.irqEn ∧
    (s.setStepReady b).keyClass = s.keyClass ∧ (s.setStepReady b).err = s.err ∧
    (s.setStepReady b).doneIrq = s.doneIrq ∧ (s.setStepReady b).errIrq = s.errIrq ∧
    (s.setStepReady b).winSel = s.winSel ∧ (s.setStepReady b).winIdx = s.winIdx ∧
    (s.setStepReady b).seq = s.seq ∧ (s.setStepReady b).done = s.done ∧
    (s.setStepReady b).success = s.success ∧ (s.setStepReady b).wbusy = s.wbusy ∧
    (s.setStepReady b).rst = s.rst ∧ (s.setStepReady b).inputs = s.inputs ∧
    (s.setStepReady b).rdata = s.rdata ∧ (s.setStepReady b).fresh = s.fresh :=
  ⟨rfl, rfl, rfl, rfl, rfl, rfl, rfl, rfl, rfl, rfl, rfl, rfl, rfl, rfl, rfl, rfl, rfl, rfl, rfl, rfl, rfl,
    rfl, rfl⟩

@[simp] theorem setIter_writes (s : State) (k : Word) :
    (s.setIter k).iter = k :=
  rfl

@[simp] theorem setIter_keeps (s : State) (k : Word) :
    (s.setIter k).mem = s.mem ∧ (s.setIter k).params = s.params ∧ (s.setIter k).lastTau = s.lastTau ∧
    (s.setIter k).lastMaxUpc = s.lastMaxUpc ∧ (s.setIter k).lastSynW = s.lastSynW ∧
    (s.setIter k).resWeight = s.resWeight ∧ (s.setIter k).errInfo = s.errInfo ∧ (s.setIter k).irqEn = s.irqEn ∧
    (s.setIter k).keyClass = s.keyClass ∧ (s.setIter k).err = s.err ∧ (s.setIter k).doneIrq = s.doneIrq ∧
    (s.setIter k).errIrq = s.errIrq ∧ (s.setIter k).winSel = s.winSel ∧ (s.setIter k).winIdx = s.winIdx ∧
    (s.setIter k).seq = s.seq ∧ (s.setIter k).done = s.done ∧ (s.setIter k).success = s.success ∧
    (s.setIter k).stepReady = s.stepReady ∧ (s.setIter k).wbusy = s.wbusy ∧ (s.setIter k).rst = s.rst ∧
    (s.setIter k).inputs = s.inputs ∧ (s.setIter k).rdata = s.rdata ∧ (s.setIter k).fresh = s.fresh :=
  ⟨rfl, rfl, rfl, rfl, rfl, rfl, rfl, rfl, rfl, rfl, rfl, rfl, rfl, rfl, rfl, rfl, rfl, rfl, rfl, rfl, rfl,
    rfl, rfl⟩

@[simp] theorem flip_writes (F : List Bool) (s : State) :
    (Machine.flip F s).mem.eout = xorV s.mem.eout F ∧
    (Machine.flip F s).mem.res = xorV (xorV s.mem.res (cp s.params.r s.key0 (half0 s.params.r F)))
      (cp s.params.r s.key1 (half1 s.params.r F)) :=
  ⟨rfl, rfl⟩

@[simp] theorem flip_keeps (F : List Bool) (s : State) :
    (Machine.flip F s).mem.h0 = s.mem.h0 ∧ (Machine.flip F s).mem.h1 = s.mem.h1 ∧
    (Machine.flip F s).mem.ein = s.mem.ein ∧ (Machine.flip F s).mem.syn = s.mem.syn ∧
    (Machine.flip F s).mem.black = s.mem.black ∧ (Machine.flip F s).mem.gray = s.mem.gray ∧
    (Machine.flip F s).mem.upc = s.mem.upc ∧ (Machine.flip F s).params = s.params ∧
    (Machine.flip F s).iter = s.iter ∧ (Machine.flip F s).lastTau = s.lastTau ∧
    (Machine.flip F s).lastMaxUpc = s.lastMaxUpc ∧ (Machine.flip F s).lastSynW = s.lastSynW ∧
    (Machine.flip F s).resWeight = s.resWeight ∧ (Machine.flip F s).errInfo = s.errInfo ∧
    (Machine.flip F s).irqEn = s.irqEn ∧ (Machine.flip F s).keyClass = s.keyClass ∧
    (Machine.flip F s).err = s.err ∧ (Machine.flip F s).doneIrq = s.doneIrq ∧
    (Machine.flip F s).errIrq = s.errIrq ∧ (Machine.flip F s).winSel = s.winSel ∧
    (Machine.flip F s).winIdx = s.winIdx ∧ (Machine.flip F s).seq = s.seq ∧ (Machine.flip F s).done = s.done ∧
    (Machine.flip F s).success = s.success ∧ (Machine.flip F s).stepReady = s.stepReady ∧
    (Machine.flip F s).wbusy = s.wbusy ∧ (Machine.flip F s).rst = s.rst ∧
    (Machine.flip F s).inputs = s.inputs ∧ (Machine.flip F s).rdata = s.rdata ∧
    (Machine.flip F s).fresh = s.fresh :=
  ⟨rfl, rfl, rfl, rfl, rfl, rfl, rfl, rfl, rfl, rfl, rfl, rfl, rfl, rfl, rfl, rfl, rfl, rfl, rfl, rfl, rfl,
    rfl, rfl, rfl, rfl, rfl, rfl, rfl, rfl, rfl⟩

@[simp] theorem setMasks_writes (B G : List Bool) (s : State) :
    (setMasks B G s).mem.black = B ∧ (setMasks B G s).mem.gray = G :=
  ⟨rfl, rfl⟩

@[simp] theorem setMasks_keeps (B G : List Bool) (s : State) :
    (setMasks B G s).mem.h0 = s.mem.h0 ∧ (setMasks B G s).mem.h1 = s.mem.h1 ∧
    (setMasks B G s).mem.ein = s.mem.ein ∧ (setMasks B G s).mem.syn = s.mem.syn ∧
    (setMasks B G s).mem.res = s.mem.res ∧ (setMasks B G s).mem.eout = s.mem.eout ∧
    (setMasks B G s).mem.upc = s.mem.upc ∧ (setMasks B G s).params = s.params ∧
    (setMasks B G s).iter = s.iter ∧ (setMasks B G s).lastTau = s.lastTau ∧
    (setMasks B G s).lastMaxUpc = s.lastMaxUpc ∧ (setMasks B G s).lastSynW = s.lastSynW ∧
    (setMasks B G s).resWeight = s.resWeight ∧ (setMasks B G s).errInfo = s.errInfo ∧
    (setMasks B G s).irqEn = s.irqEn ∧ (setMasks B G s).keyClass = s.keyClass ∧ (setMasks B G s).err = s.err ∧
    (setMasks B G s).doneIrq = s.doneIrq ∧ (setMasks B G s).errIrq = s.errIrq ∧
    (setMasks B G s).winSel = s.winSel ∧ (setMasks B G s).winIdx = s.winIdx ∧ (setMasks B G s).seq = s.seq ∧
    (setMasks B G s).done = s.done ∧ (setMasks B G s).success = s.success ∧
    (setMasks B G s).stepReady = s.stepReady ∧ (setMasks B G s).wbusy = s.wbusy ∧
    (setMasks B G s).rst = s.rst ∧ (setMasks B G s).inputs = s.inputs ∧ (setMasks B G s).rdata = s.rdata ∧
    (setMasks B G s).fresh = s.fresh :=
  ⟨rfl, rfl, rfl, rfl, rfl, rfl, rfl, rfl, rfl, rfl, rfl, rfl, rfl, rfl, rfl, rfl, rfl, rfl, rfl, rfl, rfl,
    rfl, rfl, rfl, rfl, rfl, rfl, rfl, rfl, rfl⟩

@[simp] theorem record_writes (u : List Nat) (τ m sw : Nat) (s : State) :
    (record u τ m sw s).mem.upc = u ∧ (record u τ m sw s).lastTau = sat32 τ ∧
    (record u τ m sw s).lastMaxUpc = BitVec.ofNat 32 m ∧ (record u τ m sw s).lastSynW = BitVec.ofNat 32 sw :=
  ⟨rfl, rfl, rfl, rfl⟩

@[simp] theorem record_keeps (u : List Nat) (τ m sw : Nat) (s : State) :
    (record u τ m sw s).mem.h0 = s.mem.h0 ∧ (record u τ m sw s).mem.h1 = s.mem.h1 ∧
    (record u τ m sw s).mem.ein = s.mem.ein ∧ (record u τ m sw s).mem.syn = s.mem.syn ∧
    (record u τ m sw s).mem.res = s.mem.res ∧ (record u τ m sw s).mem.eout = s.mem.eout ∧
    (record u τ m sw s).mem.black = s.mem.black ∧ (record u τ m sw s).mem.gray = s.mem.gray ∧
    (record u τ m sw s).params = s.params ∧ (record u τ m sw s).iter = s.iter ∧
    (record u τ m sw s).resWeight = s.resWeight ∧ (record u τ m sw s).errInfo = s.errInfo ∧
    (record u τ m sw s).irqEn = s.irqEn ∧ (record u τ m sw s).keyClass = s.keyClass ∧
    (record u τ m sw s).err = s.err ∧ (record u τ m sw s).doneIrq = s.doneIrq ∧
    (record u τ m sw s).errIrq = s.errIrq ∧ (record u τ m sw s).winSel = s.winSel ∧
    (record u τ m sw s).winIdx = s.winIdx ∧ (record u τ m sw s).seq = s.seq ∧
    (record u τ m sw s).done = s.done ∧ (record u τ m sw s).success = s.success ∧
    (record u τ m sw s).stepReady = s.stepReady ∧ (record u τ m sw s).wbusy = s.wbusy ∧
    (record u τ m sw s).rst = s.rst ∧ (record u τ m sw s).inputs = s.inputs ∧
    (record u τ m sw s).rdata = s.rdata ∧ (record u τ m sw s).fresh = s.fresh :=
  ⟨rfl, rfl, rfl, rfl, rfl, rfl, rfl, rfl, rfl, rfl, rfl, rfl, rfl, rfl, rfl, rfl, rfl, rfl, rfl, rfl, rfl,
    rfl, rfl, rfl, rfl, rfl, rfl, rfl⟩

@[simp] theorem clearDecoder_writes (s : State) :
    (clearDecoder s).mem.eout = zeroV (2 * s.params.r) ∧ (clearDecoder s).mem.black = zeroV (2 * s.params.r) ∧
    (clearDecoder s).mem.gray = zeroV (2 * s.params.r) ∧
    (clearDecoder s).mem.upc = List.replicate (2 * s.params.r) 0 ∧ (clearDecoder s).iter = 0#32 ∧
    (clearDecoder s).lastTau = 0#32 ∧ (clearDecoder s).lastMaxUpc = 0#32 ∧ (clearDecoder s).lastSynW = 0#32 :=
  ⟨rfl, rfl, rfl, rfl, rfl, rfl, rfl, rfl⟩

@[simp] theorem clearDecoder_keeps (s : State) :
    (clearDecoder s).mem.h0 = s.mem.h0 ∧ (clearDecoder s).mem.h1 = s.mem.h1 ∧
    (clearDecoder s).mem.ein = s.mem.ein ∧ (clearDecoder s).mem.syn = s.mem.syn ∧
    (clearDecoder s).mem.res = s.mem.res ∧ (clearDecoder s).params = s.params ∧
    (clearDecoder s).resWeight = s.resWeight ∧ (clearDecoder s).errInfo = s.errInfo ∧
    (clearDecoder s).irqEn = s.irqEn ∧ (clearDecoder s).keyClass = s.keyClass ∧ (clearDecoder s).err = s.err ∧
    (clearDecoder s).doneIrq = s.doneIrq ∧ (clearDecoder s).errIrq = s.errIrq ∧
    (clearDecoder s).winSel = s.winSel ∧ (clearDecoder s).winIdx = s.winIdx ∧ (clearDecoder s).seq = s.seq ∧
    (clearDecoder s).done = s.done ∧ (clearDecoder s).success = s.success ∧
    (clearDecoder s).stepReady = s.stepReady ∧ (clearDecoder s).wbusy = s.wbusy ∧
    (clearDecoder s).rst = s.rst ∧ (clearDecoder s).inputs = s.inputs ∧ (clearDecoder s).rdata = s.rdata ∧
    (clearDecoder s).fresh = s.fresh :=
  ⟨rfl, rfl, rfl, rfl, rfl, rfl, rfl, rfl, rfl, rfl, rfl, rfl, rfl, rfl, rfl, rfl, rfl, rfl, rfl, rfl, rfl,
    rfl, rfl, rfl⟩

@[simp] theorem clearResults_writes (s : State) :
    (clearResults s).mem.syn = zeroV s.params.r ∧ (clearResults s).mem.res = zeroV s.params.r ∧
    (clearResults s).mem.eout = zeroV (2 * s.params.r) ∧ (clearResults s).mem.black = zeroV (2 * s.params.r) ∧
    (clearResults s).mem.gray = zeroV (2 * s.params.r) ∧
    (clearResults s).mem.upc = List.replicate (2 * s.params.r) 0 ∧ (clearResults s).iter = 0#32 ∧
    (clearResults s).lastTau = 0#32 ∧ (clearResults s).lastMaxUpc = 0#32 ∧ (clearResults s).lastSynW = 0#32 ∧
    (clearResults s).success = false ∧ (clearResults s).stepReady = false ∧ (clearResults s).wbusy = false :=
  ⟨rfl, rfl, rfl, rfl, rfl, rfl, rfl, rfl, rfl, rfl, rfl, rfl, rfl⟩

@[simp] theorem clearResults_keeps (s : State) :
    (clearResults s).mem.h0 = s.mem.h0 ∧ (clearResults s).mem.h1 = s.mem.h1 ∧
    (clearResults s).mem.ein = s.mem.ein ∧ (clearResults s).params = s.params ∧
    (clearResults s).resWeight = s.resWeight ∧ (clearResults s).errInfo = s.errInfo ∧
    (clearResults s).irqEn = s.irqEn ∧ (clearResults s).keyClass = s.keyClass ∧ (clearResults s).err = s.err ∧
    (clearResults s).doneIrq = s.doneIrq ∧ (clearResults s).errIrq = s.errIrq ∧
    (clearResults s).winSel = s.winSel ∧ (clearResults s).winIdx = s.winIdx ∧ (clearResults s).seq = s.seq ∧
    (clearResults s).done = s.done ∧ (clearResults s).rst = s.rst ∧ (clearResults s).inputs = s.inputs ∧
    (clearResults s).rdata = s.rdata ∧ (clearResults s).fresh = s.fresh :=
  ⟨rfl, rfl, rfl, rfl, rfl, rfl, rfl, rfl, rfl, rfl, rfl, rfl, rfl, rfl, rfl, rfl, rfl, rfl, rfl⟩

@[simp] theorem accept_writes (c : Word) (s : State) :
    (accept c s).err = .none ∧ (accept c s).done = false ∧ (accept c s).seq = .busy c :=
  ⟨rfl, rfl, rfl⟩

@[simp] theorem accept_keeps (c : Word) (s : State) :
    (accept c s).mem = s.mem ∧ (accept c s).params = s.params ∧ (accept c s).iter = s.iter ∧
    (accept c s).lastTau = s.lastTau ∧ (accept c s).lastMaxUpc = s.lastMaxUpc ∧
    (accept c s).lastSynW = s.lastSynW ∧ (accept c s).resWeight = s.resWeight ∧
    (accept c s).errInfo = s.errInfo ∧ (accept c s).irqEn = s.irqEn ∧ (accept c s).keyClass = s.keyClass ∧
    (accept c s).doneIrq = s.doneIrq ∧ (accept c s).errIrq = s.errIrq ∧ (accept c s).winSel = s.winSel ∧
    (accept c s).winIdx = s.winIdx ∧ (accept c s).success = s.success ∧ (accept c s).stepReady = s.stepReady ∧
    (accept c s).wbusy = s.wbusy ∧ (accept c s).rst = s.rst ∧ (accept c s).inputs = s.inputs ∧
    (accept c s).rdata = s.rdata ∧ (accept c s).fresh = s.fresh :=
  ⟨rfl, rfl, rfl, rfl, rfl, rfl, rfl, rfl, rfl, rfl, rfl, rfl, rfl, rfl, rfl, rfl, rfl, rfl, rfl, rfl, rfl⟩

@[simp] theorem dropWrite_writes (s : State) :
    (dropWrite s).wbusy = true :=
  rfl

@[simp] theorem dropWrite_keeps (s : State) :
    (dropWrite s).mem = s.mem ∧ (dropWrite s).params = s.params ∧ (dropWrite s).iter = s.iter ∧
    (dropWrite s).lastTau = s.lastTau ∧ (dropWrite s).lastMaxUpc = s.lastMaxUpc ∧
    (dropWrite s).lastSynW = s.lastSynW ∧ (dropWrite s).resWeight = s.resWeight ∧
    (dropWrite s).errInfo = s.errInfo ∧ (dropWrite s).irqEn = s.irqEn ∧ (dropWrite s).keyClass = s.keyClass ∧
    (dropWrite s).err = s.err ∧ (dropWrite s).doneIrq = s.doneIrq ∧ (dropWrite s).errIrq = s.errIrq ∧
    (dropWrite s).winSel = s.winSel ∧ (dropWrite s).winIdx = s.winIdx ∧ (dropWrite s).seq = s.seq ∧
    (dropWrite s).done = s.done ∧ (dropWrite s).success = s.success ∧ (dropWrite s).stepReady = s.stepReady ∧
    (dropWrite s).rst = s.rst ∧ (dropWrite s).inputs = s.inputs ∧ (dropWrite s).rdata = s.rdata ∧
    (dropWrite s).fresh = s.fresh :=
  ⟨rfl, rfl, rfl, rfl, rfl, rfl, rfl, rfl, rfl, rfl, rfl, rfl, rfl, rfl, rfl, rfl, rfl, rfl, rfl, rfl, rfl,
    rfl, rfl⟩

@[simp] theorem storeCtrl_writes (v : Word) (s : State) :
    (storeCtrl v s).irqEn = v.getLsbD 0 ∧ (storeCtrl v s).keyClass = v.extractLsb' 1 2 :=
  ⟨rfl, rfl⟩

@[simp] theorem storeCtrl_keeps (v : Word) (s : State) :
    (storeCtrl v s).mem = s.mem ∧ (storeCtrl v s).params = s.params ∧ (storeCtrl v s).iter = s.iter ∧
    (storeCtrl v s).lastTau = s.lastTau ∧ (storeCtrl v s).lastMaxUpc = s.lastMaxUpc ∧
    (storeCtrl v s).lastSynW = s.lastSynW ∧ (storeCtrl v s).resWeight = s.resWeight ∧
    (storeCtrl v s).errInfo = s.errInfo ∧ (storeCtrl v s).err = s.err ∧ (storeCtrl v s).doneIrq = s.doneIrq ∧
    (storeCtrl v s).errIrq = s.errIrq ∧ (storeCtrl v s).winSel = s.winSel ∧ (storeCtrl v s).winIdx = s.winIdx ∧
    (storeCtrl v s).seq = s.seq ∧ (storeCtrl v s).done = s.done ∧ (storeCtrl v s).success = s.success ∧
    (storeCtrl v s).stepReady = s.stepReady ∧ (storeCtrl v s).wbusy = s.wbusy ∧ (storeCtrl v s).rst = s.rst ∧
    (storeCtrl v s).inputs = s.inputs ∧ (storeCtrl v s).rdata = s.rdata ∧ (storeCtrl v s).fresh = s.fresh :=
  ⟨rfl, rfl, rfl, rfl, rfl, rfl, rfl, rfl, rfl, rfl, rfl, rfl, rfl, rfl, rfl, rfl, rfl, rfl, rfl, rfl, rfl,
    rfl⟩

/-- A state's supports depend on its key stores alone. -/
theorem key_congr {s t : State} (h0 : t.mem.h0 = s.mem.h0) (h1 : t.mem.h1 = s.mem.h1) :
    t.key0 = s.key0 ∧ t.key1 = s.key1 := by
  simp [State.key0, State.key1, h0, h1]

/-- A state's counters depend on the parameters, the key stores and the residual alone. -/
theorem counters_congr {s t : State} (hp : t.params = s.params) (h0 : t.mem.h0 = s.mem.h0)
    (h1 : t.mem.h1 = s.mem.h1) (hr : t.mem.res = s.mem.res) : t.counters = s.counters := by
  simp [State.counters, (key_congr h0 h1).1, (key_congr h0 h1).2, hp, hr]

end Sys2Proof.Machine
end

