-- ==== Sys2Proof/Laws/Ops.lean ====
section
/-! SUPPORT. What each shared operation can do, said once: the canonical form of the data storage is kept by every operation
(`…_wf`), what the decoder's operations leave alone (`KeepsOutside`), and how a command ends (`exec_next_iff`). -/

namespace Sys2Proof.Machine

/-- The canonical form, as one proposition per element. -/
theorem Memory.wf_iff (p : Params) (m : Memory) : m.wf p = true ↔
    m.h0.length = p.w ∧ m.h1.length = p.w ∧ m.ein.length = 2 * p.r ∧ m.syn.length = p.r ∧
    m.res.length = p.r ∧ m.eout.length = 2 * p.r ∧ m.black.length = 2 * p.r ∧ m.gray.length = 2 * p.r ∧
    m.upc.length = 2 * p.r ∧ ∀ u ∈ m.upc, u ≤ p.w := by
  simp [Memory.wf, and_assoc]

/-- The data storage of a state is in canonical form. -/
abbrev State.MemOk (s : State) : Prop := s.mem.wf s.params = true

theorem Memory.zero_wf (p : Params) : (Memory.zero p).wf p = true := by
  simp only [Memory.wf_iff, Memory.zero, List.length_replicate, true_and]
  exact fun u hu => by simp [List.eq_of_mem_replicate hu]

/-- A window store keeps the canonical form (R80: padding is not stored). -/
theorem Window.store_wf {p : Params} {m : Memory} (h : m.wf p = true) (w : Window) (i : Nat) (x : Word) :
    (w.store p m i x).wf p = true := by
  obtain ⟨h0, h1, he, hs, hr, ho, hb, hg, hu, hle⟩ := (Memory.wf_iff p m).1 h
  have l0 := length_half0 (r := p.r) he
  have l1 := length_half1 (r := p.r) he
  rw [Memory.wf_iff]
  cases w <;> simp [Window.store, h0, h1, he, hs, hr, ho, hb, hg, hu, l0, l1] <;> first | exact hle | skip
  all_goals exact ⟨by omega, hle⟩

theorem winWrite_wf {s : State} (h : s.MemOk) (x : Word) : (s.winWrite x).MemOk := by
  unfold State.winWrite; split
  · split
    · exact Window.store_wf h _ _ _
    · exact h
  · exact h

theorem setSyn_wf {s : State} (h : s.MemOk) {v : List Bool} (hv : v.length = s.params.r) :
    (s.setSyn v).MemOk := by
  rw [State.MemOk, Memory.wf_iff] at *; simpa [hv] using ⟨h.1, h.2.1, h.2.2.1, h.2.2.2.2⟩

theorem setRes_wf {s : State} (h : s.MemOk) {v : List Bool} (hv : v.length = s.params.r) :
    (s.setRes v).MemOk := by
  rw [State.MemOk, Memory.wf_iff] at *; simpa [hv] using ⟨h.1, h.2.1, h.2.2.1, h.2.2.2.1, h.2.2.2.2.2⟩

theorem flip_wf {s : State} (h : s.MemOk) {F : List Bool} (hF : F.length = 2 * s.params.r) :
    (Machine.flip F s).MemOk := by
  obtain ⟨h0, h1, he, hs, hr, ho, hb, hg, hu, hle⟩ := (Memory.wf_iff _ _).1 h
  rw [State.MemOk, Memory.wf_iff]
  simpa [length_xorV, h0, h1, he, hs, hr, ho, hb, hg, hu, hF] using hle

theorem setMasks_wf {s : State} (h : s.MemOk) {B G : List Bool}
    (hB : B.length = 2 * s.params.r) (hG : G.length = 2 * s.params.r) :
    (setMasks B G s).MemOk := by
  obtain ⟨h0, h1, he, hs, hr, ho, hb, hg, hu, hle⟩ := (Memory.wf_iff _ _).1 h
  rw [State.MemOk, Memory.wf_iff]
  simpa [h0, h1, he, hs, hr, ho, hB, hG, hu] using hle

theorem record_wf {s : State} (h : s.MemOk) {u : List Nat} (hu : u.length = 2 * s.params.r)
    (hle : ∀ x ∈ u, x ≤ s.params.w) (τ m sw : Nat) : (record u τ m sw s).MemOk := by
  obtain ⟨h0, h1, he, hs, hr, ho, hb, hg, -, -⟩ := (Memory.wf_iff _ _).1 h
  rw [State.MemOk, Memory.wf_iff]
  simpa [h0, h1, he, hs, hr, ho, hb, hg, hu] using hle

theorem clearDecoder_wf {s : State} (h : s.MemOk) :
    (clearDecoder s).MemOk := by
  obtain ⟨h0, h1, he, hs, hr, ho, hb, hg, -, -⟩ := (Memory.wf_iff _ _).1 h
  rw [State.MemOk, Memory.wf_iff]
  simp only [clearDecoder_writes, clearDecoder_keeps, h0, h1, he, hs, hr, length_zeroV, List.length_replicate,
    true_and]
  exact fun u hu => by simp [List.eq_of_mem_replicate hu]

theorem length_counters (s : State) : s.counters.length = 2 * s.params.r := length_upcOf ..

theorem counters_le {s : State} (h : s.MemOk) : ∀ x ∈ s.counters, x ≤ s.params.w := by
  obtain ⟨h0, h1, -⟩ := (Memory.wf_iff _ _).1 h
  intro x hx
  obtain ⟨j, -, rfl⟩ := List.mem_map.1 hx
  exact upcAt_le ((length_keySet_le _).trans h0.le) ((length_keySet_le _).trans h1.le) _ _

/-- `t` agrees with `s` on everything but RES, EOUT, BLACK, GRAY, UPC, ITER, LAST_*, SUCCESS and STEP_READY. -/
structure KeepsOutside (s t : State) : Prop where
  params : t.params = s.params
  h0 : t.mem.h0 = s.mem.h0
  h1 : t.mem.h1 = s.mem.h1
  ein : t.mem.ein = s.mem.ein
  syn : t.mem.syn = s.mem.syn
  resWeight : t.resWeight = s.resWeight
  errInfo : t.errInfo = s.errInfo
  irqEn : t.irqEn = s.irqEn
  keyClass : t.keyClass = s.keyClass
  err : t.err = s.err
  doneIrq : t.doneIrq = s.doneIrq
  errIrq : t.errIrq = s.errIrq
  winSel : t.winSel = s.winSel
  winIdx : t.winIdx = s.winIdx
  seq : t.seq = s.seq
  done : t.done = s.done
  wbusy : t.wbusy = s.wbusy
  rst : t.rst = s.rst
  inputs : t.inputs = s.inputs
  rdata : t.rdata = s.rdata
  fresh : t.fresh = s.fresh

theorem KeepsOutside.trans {s t u : State} (h : KeepsOutside s t) (g : KeepsOutside t u) : KeepsOutside s u where
  params := g.params.trans h.params
  h0 := g.h0.trans h.h0
  h1 := g.h1.trans h.h1
  ein := g.ein.trans h.ein
  syn := g.syn.trans h.syn
  resWeight := g.resWeight.trans h.resWeight
  errInfo := g.errInfo.trans h.errInfo
  irqEn := g.irqEn.trans h.irqEn
  keyClass := g.keyClass.trans h.keyClass
  err := g.err.trans h.err
  doneIrq := g.doneIrq.trans h.doneIrq
  errIrq := g.errIrq.trans h.errIrq
  winSel := g.winSel.trans h.winSel
  winIdx := g.winIdx.trans h.winIdx
  seq := g.seq.trans h.seq
  done := g.done.trans h.done
  wbusy := g.wbusy.trans h.wbusy
  rst := g.rst.trans h.rst
  inputs := g.inputs.trans h.inputs
  rdata := g.rdata.trans h.rdata
  fresh := g.fresh.trans h.fresh

theorem flip_outside (F : List Bool) (s : State) : KeepsOutside s (Machine.flip F s) := by constructor <;> simp

theorem setMasks_outside (B G : List Bool) (s : State) : KeepsOutside s (setMasks B G s) := by
  constructor <;> simp

theorem record_outside (u : List Nat) (τ m sw : Nat) (s : State) : KeepsOutside s (record u τ m sw s) := by
  constructor <;> simp

theorem setIter_outside (k : Word) (s : State) : KeepsOutside s (s.setIter k) := by constructor <;> simp

theorem setSuccess_outside (b : Bool) (s : State) : KeepsOutside s (s.setSuccess b) := by constructor <;> simp

theorem setStepReady_outside (b : Bool) (s : State) : KeepsOutside s (s.setStepReady b) := by
  constructor <;> simp

theorem maskPass_outside (A : Algo) (M : List Bool) (s : State) : KeepsOutside s (maskPass A M s) :=
  flip_outside ..

theorem firstFlips_outside (A : Algo) (u : List Nat) (τ : Nat) (F : List Bool) (s : State) :
    KeepsOutside s (firstFlips A u τ F s) := by
  unfold firstFlips; split
  · exact (setMasks_outside ..).trans (flip_outside ..)
  · exact (((setMasks_outside ..).trans (flip_outside ..)).trans (maskPass_outside ..)).trans
      (maskPass_outside ..)

theorem iteration_outside (A : Algo) (k : Word) (s : State) : KeepsOutside s (iteration A k s) := by
  unfold iteration; dsimp only; split
  · exact (firstFlips_outside ..).trans (record_outside ..)
  · exact (flip_outside ..).trans (record_outside ..)

theorem decInit_outside (s : State) : KeepsOutside s (decInit s) := by constructor <;> simp [decInit]

theorem decodeRound_outside (A : Algo) (s : State) : KeepsOutside s (decodeRound A s) :=
  (iteration_outside ..).trans (setIter_outside ..)

theorem decodeLoop_outside (A : Algo) (n : Nat) (s : State) : KeepsOutside s (decodeLoop A n s) := by
  induction n generalizing s with
  | zero => exact setSuccess_outside ..
  | succ n ih =>
    unfold decodeLoop; split
    · exact setSuccess_outside ..
    · exact (decodeRound_outside A s).trans (ih _)

@[simp] theorem maskPass_flags (A : Algo) (M : List Bool) (s : State) :
    (maskPass A M s).iter = s.iter ∧ (maskPass A M s).success = s.success ∧
    (maskPass A M s).stepReady = s.stepReady := by simp [maskPass]

@[simp] theorem firstFlips_flags (A : Algo) (u : List Nat) (τ : Nat) (F : List Bool) (s : State) :
    (firstFlips A u τ F s).iter = s.iter ∧ (firstFlips A u τ F s).success = s.success ∧
    (firstFlips A u τ F s).stepReady = s.stepReady := by
  unfold firstFlips; split <;> simp

@[simp] theorem iteration_flags (A : Algo) (k : Word) (s : State) :
    (iteration A k s).iter = s.iter ∧ (iteration A k s).success = s.success ∧
    (iteration A k s).stepReady = s.stepReady := by
  unfold iteration; dsimp only; split <;> simp

/-- What an iteration records (R159). -/
@[simp] theorem iteration_records (A : Algo) (k : Word) (s : State) :
    (iteration A k s).mem.upc = s.counters ∧ (iteration A k s).lastTau = sat32 (threshold A k s) ∧
    (iteration A k s).lastMaxUpc = BitVec.ofNat 32 (maxCounter s.counters) ∧
    (iteration A k s).lastSynW = BitVec.ofNat 32 (popcount s.mem.res) := by
  simp [iteration]

theorem maskPass_wf (A : Algo) (M : List Bool) {s : State} (h : s.MemOk) :
    (maskPass A M s).MemOk := flip_wf h (length_maskedFlipSet ..)

theorem firstFlips_wf (A : Algo) (u : List Nat) (τ : Nat) {F : List Bool} {s : State}
    (h : s.MemOk) (hF : F.length = 2 * s.params.r) : (firstFlips A u τ F s).MemOk := by
  have hm := setMasks_wf h (length_bits (2 * s.params.r) (A.masks u τ s.keyClass).1)
    (length_bits (2 * s.params.r) (A.masks u τ s.keyClass).2)
  unfold firstFlips; split
  · exact flip_wf hm (length_bits ..)
  · exact maskPass_wf A _ (maskPass_wf A _ (flip_wf hm hF))

theorem iteration_wf (A : Algo) (k : Word) {s : State} (h : s.MemOk) : (iteration A k s).MemOk := by
  unfold iteration; dsimp only; split
  · have hf := (firstFlips_outside A s.counters (threshold A k s)
      (flipSet s.params.r s.counters (threshold A k s)) s).params
    exact record_wf (firstFlips_wf A _ _ h (length_flipSet ..)) (by rw [hf]; exact length_counters s)
      (by rw [hf]; exact counters_le h) _ _ _
  · exact record_wf (flip_wf h (length_flipSet ..)) (length_counters s) (counters_le h) _ _ _

theorem decInit_wf {s : State} (h : s.MemOk) : (decInit s).MemOk :=
  setRes_wf (clearDecoder_wf h) ((Memory.wf_iff _ _).1 h).2.2.2.1

theorem decodeRound_wf (A : Algo) {s : State} (h : s.MemOk) : (decodeRound A s).MemOk := by
  simpa [State.MemOk, decodeRound] using iteration_wf A (s.iter + 1#32) h

theorem decodeLoop_wf (A : Algo) (n : Nat) {s : State} (h : s.MemOk) : (decodeLoop A n s).MemOk := by
  induction n generalizing s with
  | zero => simpa [State.MemOk, decodeLoop] using h
  | succ n ih =>
    unfold decodeLoop; split
    · simpa [State.MemOk] using h
    · exact ih (decodeRound_wf A h)

/-- The check that decides whether a command raises an error. -/
def checkOf : Instr → State → Option CmdError
  | .nop, _ => none
  | .cprod0, s => keyCheck s
  | .cprod1, s => keyCheck s
  | .syndrome, s => (keyCheck s).or (errCheck s)
  | .decode, s => keyCheck s
  | .decInit, s => keyCheck s
  | .decStep, s => readyCheck s
  | .clear, _ => none

/-- The state a command completes from when it raises no error. -/
def effectOf : Instr → State → State
  | .nop, s => s
  | .cprod0, s => s.setSyn (cp s.params.r s.key0 s.ein0)
  | .cprod1, s => s.setSyn (cp s.params.r s.key1 s.ein1)
  | .syndrome, s => s.setSyn (xorV (cp s.params.r s.key0 s.ein0) (cp s.params.r s.key1 s.ein1))
  | .decode, s => (decodeLoop s.params.fns s.params.nbIter (decInit s)).setStepReady true
  | .decInit, s => (judge (decInit s)).setStepReady true
  | .decStep, s => judge ((iteration s.params.fns (nextIter s) s).setIter (nextIter s))
  | .clear, s => clearResults s

theorem exec_eq_finish (i : Instr) (s : State) : exec i s = finish (checkOf i s) s (effectOf i s) := by
  cases i <;> rfl

/-- How a command ends: with the error its check found and nothing else, or completed with its effect. -/
theorem exec_next_iff (i : Instr) (s t : State) : exec i s = .next t ↔
    (∃ e, checkOf i s = some e ∧ t = raiseCmdError e s) ∨ (checkOf i s = none ∧ t = completeOk (effectOf i s)) := by
  rw [exec_eq_finish]
  cases checkOf i s <;> simp [finish, eq_comm]

theorem exec_of_check_none {i : Instr} {s : State} (h : checkOf i s = none) :
    exec i s = .next (completeOk (effectOf i s)) := (exec_next_iff ..).2 (.inr ⟨h, rfl⟩)

theorem exec_of_check_some {i : Instr} {s : State} {e : CmdError} (h : checkOf i s = some e) :
    exec i s = .next (raiseCmdError e s) := (exec_next_iff ..).2 (.inl ⟨e, h, rfl⟩)

theorem checkOf_code_ne_none {i : Instr} {s : State} {e : CmdError} (h : checkOf i s = some e) :
    e.code ≠ .none := by
  have key : ∀ {e}, keyCheck s = some e → e.code ≠ .none := by
    intro e h; unfold keyCheck at h
    split at h
    · cases h; simp
    · split at h <;> cases h; simp
  have wt : ∀ {e}, errCheck s = some e → e.code ≠ .none := by
    intro e h; unfold errCheck at h; split at h <;> cases h; simp
  cases i <;> simp only [checkOf, reduceCtorEq] at h
  · exact key h
  · exact key h
  · cases hk : keyCheck s <;> simp [hk] at h
    · exact wt h
    · exact key (h ▸ hk)
  · exact key h
  · exact key h
  · unfold readyCheck at h; split at h <;> cases h; simp

/-- No command's effect writes the build, the key, EIN, CTRL, the window registers or the environment (R102). -/
theorem effectOf_host (i : Instr) (s : State) : KeepsHostSide s (effectOf i s) := by
  have ofOutside : ∀ {t : State}, KeepsOutside s t → KeepsHostSide s t := fun h =>
    ⟨h.params, h.h0, h.h1, h.ein, h.irqEn, h.keyClass, h.winSel, h.winIdx, h.rst, h.inputs, h.rdata, h.fresh⟩
  cases i
  case decode =>
    exact ofOutside (((decInit_outside s).trans (decodeLoop_outside ..)).trans (setStepReady_outside ..))
  case decInit =>
    exact ofOutside (((decInit_outside s).trans (setSuccess_outside ..)).trans (setStepReady_outside ..))
  case decStep =>
    exact ofOutside (((iteration_outside ..).trans (setIter_outside ..)).trans (setSuccess_outside ..))
  all_goals constructor <;> simp [effectOf]

/-- No command's effect touches the flags completion writes. -/
theorem effectOf_flags (i : Instr) (s : State) :
    (effectOf i s).doneIrq = s.doneIrq ∧ (effectOf i s).errIrq = s.errIrq ∧ (effectOf i s).seq = s.seq := by
  have ofOutside : ∀ {t : State}, KeepsOutside s t →
      t.doneIrq = s.doneIrq ∧ t.errIrq = s.errIrq ∧ t.seq = s.seq := fun h => ⟨h.doneIrq, h.errIrq, h.seq⟩
  cases i
  case decode =>
    exact ofOutside (((decInit_outside s).trans (decodeLoop_outside ..)).trans (setStepReady_outside ..))
  case decInit =>
    exact ofOutside (((decInit_outside s).trans (setSuccess_outside ..)).trans (setStepReady_outside ..))
  case decStep =>
    exact ofOutside (((iteration_outside ..).trans (setIter_outside ..)).trans (setSuccess_outside ..))
  all_goals simp [effectOf]

theorem effectOf_wf (i : Instr) {s : State} (h : s.MemOk) : (effectOf i s).MemOk := by
  cases i
  case nop => exact h
  case cprod0 => exact setSyn_wf h (length_cp ..)
  case cprod1 => exact setSyn_wf h (length_cp ..)
  case syndrome => exact setSyn_wf h (by simp)
  case decode =>
    simpa [State.MemOk, effectOf] using decodeLoop_wf s.params.fns s.params.nbIter (decInit_wf h)
  case decInit => simpa [State.MemOk, effectOf, judge] using decInit_wf h
  case decStep => simpa [State.MemOk, effectOf, judge] using iteration_wf s.params.fns (nextIter s) h
  case clear =>
    exact setSyn_wf (setRes_wf (clearDecoder_wf h) (length_zeroV ..)) (length_zeroV ..)

/-- Every command keeps the canonical form of the data storage. -/
theorem exec_wf {i : Instr} {s t : State} (he : exec i s = .next t) (h : s.MemOk) : t.MemOk := by
  rcases (exec_next_iff ..).1 he with ⟨e, -, rfl⟩ | ⟨-, rfl⟩
  · simpa [State.MemOk] using h
  · simpa [State.MemOk] using effectOf_wf i h

end Sys2Proof.Machine
end

