-- ==== Sys2Proof/Laws/Decoder.lean ====
section
/-! SUPPORT. What the decoder's operations do, said once: a flip's residual (R155), what every iteration preserves (R165), and
what DecodeLoop runs (R162). -/

namespace Sys2Proof.Machine

/-- A flip updates the residual by the syndrome of the flipped set. -/
theorem flip_res {s : State} (hw : s.MemOk) (F : List Bool) :
    (Machine.flip F s).mem.res = xorV s.mem.res (syndromeOf s.params.r s.key0 s.key1 F) := by
  obtain ⟨h0, h1, he, hsy, hr, ho, hbk, hg, hu, hle⟩ := (Memory.wf_iff _ _).1 hw
  simp only [flip_writes, syndromeOf]
  exact xorV_assoc hr (by simp) (by simp)

theorem decoderInput_congr {s t : State} (hp : t.params = s.params) (h0 : t.mem.h0 = s.mem.h0)
    (h1 : t.mem.h1 = s.mem.h1) (hr : t.mem.res = s.mem.res) (he : t.mem.eout = s.mem.eout) :
    t.decoderInput = s.decoderInput := by
  unfold State.decoderInput State.key0 State.key1; rw [hp, h0, h1, hr, he]

theorem flip_decoderInput {s : State} (hw : s.MemOk) {F : List Bool} (hF : F.length = 2 * s.params.r) :
    (Machine.flip F s).decoderInput = s.decoderInput := by
  obtain ⟨h0, h1, he, hsy, hr, ho, hbk, hg, hu, hle⟩ := (Memory.wf_iff _ _).1 hw
  have e : (Machine.flip F s).mem.eout = xorV s.mem.eout F := by simp
  show xorV _ (syndromeOf s.params.r s.key0 s.key1 _) = _
  rw [flip_res hw, e, syndromeOf_xorV _ _ _ ho hF]
  unfold State.decoderInput
  have la := length_syndromeOf s.params.r s.key0 s.key1 F
  have lb := length_syndromeOf s.params.r s.key0 s.key1 s.mem.eout
  rw [xorV_assoc hr la (by simp), xorV_comm (syndromeOf _ _ _ s.mem.eout), ← xorV_assoc la la lb, xorV_self, la,
    xorV_comm (zeroV _), xorV_zeroV lb]

theorem iteration_decoderInput (A : Algo) (k : Word) {s : State} (hw : s.MemOk) :
    (iteration A k s).decoderInput = s.decoderInput := by
  unfold iteration
  dsimp only
  rw [decoderInput_congr (t := record _ _ _ _ _) (by simp; rfl) (by simp) (by simp) (by simp) (by simp)]
  split
  · unfold firstFlips
    have wm : ∀ x y, (setMasks (bits (2 * s.params.r) x) (bits (2 * s.params.r) y) s).MemOk :=
      fun x y => setMasks_wf hw (by simp) (by simp)
    dsimp only
    split
    · rw [flip_decoderInput (wm _ _) (by simp)]; rfl
    · have w2 := flip_wf (wm (A.masks s.counters (threshold A k s) s.keyClass).1
        (A.masks s.counters (threshold A k s) s.keyClass).2)
        (length_flipSet s.params.r s.counters (threshold A k s))
      have w3 := maskPass_wf A (bits (2 * s.params.r) (A.masks s.counters (threshold A k s) s.keyClass).1) w2
      unfold maskPass at w3 ⊢
      rw [flip_decoderInput w3 (by simp), flip_decoderInput w2 (by simp), flip_decoderInput (wm _ _) (by simp)]
      rfl
  · exact flip_decoderInput hw (by simp)

theorem decInit_decoderInput {s : State} (hw : s.MemOk) : (decInit s).decoderInput = s.mem.syn := by
  have hsy := ((Memory.wf_iff _ _).1 hw).2.2.2.1
  show xorV s.mem.syn (syndromeOf s.params.r s.key0 s.key1 (zeroV (2 * s.params.r))) = _
  rw [syndromeOf_zeroV, xorV_zeroV hsy]

/-- The state after m rounds of DecodeLoop. -/
def roundsFrom (A : Algo) : Nat → State → State
  | 0, s => s
  | m + 1, s => decodeRound A (roundsFrom A m s)

theorem roundsFrom_succ (A : Algo) (m : Nat) (s : State) :
    roundsFrom A (m + 1) s = roundsFrom A m (decodeRound A s) := by
  induction m with
  | zero => rfl
  | succ m ih => rw [roundsFrom, ih]; rfl

/-- What DecodeLoop runs: rounds up to the first zero residual, or up to its bound (R162). -/
theorem decodeLoop_eq (A : Algo) (b : Nat) (s : State) : ∃ n, n ≤ b ∧
    (∀ m, m < n → isZero (roundsFrom A m s).mem.res = false) ∧
    (isZero (roundsFrom A n s).mem.res = true ∨ n = b) ∧
    decodeLoop A b s = (roundsFrom A n s).setSuccess (isZero (roundsFrom A n s).mem.res) := by
  induction b generalizing s with
  | zero => exact ⟨0, by omega, by omega, .inr rfl, rfl⟩
  | succ b ih =>
    unfold decodeLoop
    split <;> rename_i h
    · exact ⟨0, by omega, by omega, .inl h, by rw [roundsFrom, h]⟩
    · obtain ⟨n, h1, h2, h3, h4⟩ := ih (decodeRound A s)
      refine ⟨n + 1, by omega, fun m hm => ?_, ?_, ?_⟩
      · cases m with
        | zero => simpa [roundsFrom] using h
        | succ m => rw [roundsFrom_succ]; exact h2 m (by omega)
      · rw [roundsFrom_succ]; exact h3.imp id (by omega)
      · rw [roundsFrom_succ, h4]

theorem roundsFrom_iter (A : Algo) (m : Nat) {s : State} (h : s.iter = 0#32) :
    (roundsFrom A m s).iter = BitVec.ofNat 32 m := by
  induction m with
  | zero => exact h
  | succ m ih => simp [roundsFrom, decodeRound, ih, BitVec.ofNat_add]

/-- An iteration does not read ITER. -/
theorem iteration_setIter (A : Algo) (k : Word) (s : State) (j : Word) :
    iteration A k (s.setIter j) = (iteration A k s).setIter j := by
  unfold iteration
  dsimp only
  split
  · unfold firstFlips
    dsimp only [threshold]
    cases A.mode <;> rfl
  · rfl

theorem roundsFrom_wf (A : Algo) (n : Nat) {s : State} (hw : s.MemOk) :
    (roundsFrom A n s).MemOk ∧ (roundsFrom A n s).decoderInput = s.decoderInput := by
  induction n with
  | zero => exact ⟨hw, rfl⟩
  | succ n ih =>
    refine ⟨decodeRound_wf A ih.1, ?_⟩
    rw [← ih.2, ← iteration_decoderInput A ((roundsFrom A n s).iter + 1#32) ih.1]
    rfl

end Sys2Proof.Machine
end

