-- ==== Sys2Proof/Laws/Flags.lean ====
section
/-! SUPPORT. What the status words are, bit by bit. -/

namespace Sys2Proof.Machine

/-- The bits of CTRL (R43). -/
theorem ctrlWord_getLsbD (s : State) (i : Nat) : s.ctrlWord.getLsbD i =
    (decide (i = 0) && s.irqEn || decide (i = 1) && s.keyClass.getLsbD 0 ||
      decide (i = 2) && s.keyClass.getLsbD 1) := by
  by_cases hi : i < 32
  · have h : ∀ (k : BitVec 2) (b : Bool) (j : Fin 32), (0#29 ++ k ++ BitVec.ofBool b).getLsbD j.val =
        (decide (j.val = 0) && b || decide (j.val = 1) && k.getLsbD 0 || decide (j.val = 2) && k.getLsbD 1) := by
      decide
    exact h s.keyClass s.irqEn ⟨i, hi⟩
  · rw [BitVec.getLsbD_of_ge _ _ (by omega)]; simp; omega

/-- The bits of IRQ_STATUS (R46). -/
theorem irqStatusWord_getLsbD (s : State) (i : Nat) : s.irqStatusWord.getLsbD i =
    (decide (i = 0) && s.doneIrq || decide (i = 1) && s.errIrq || decide (i = 2) && s.wbusy) := by
  by_cases hi : i < 32
  · have h : ∀ (a b c : Bool) (j : Fin 32),
        (0#29 ++ BitVec.ofBool a ++ BitVec.ofBool b ++ BitVec.ofBool c).getLsbD j.val =
        (decide (j.val = 0) && c || decide (j.val = 1) && b || decide (j.val = 2) && a) := by decide
    exact h s.wbusy s.errIrq s.doneIrq ⟨i, hi⟩
  · rw [BitVec.getLsbD_of_ge _ _ (by omega)]; simp; omega

/-- The fields of STATUS (R45). -/
theorem statusWord_fields (s : State) : s.statusWord.getLsbD 0 = s.busy ∧ s.statusWord.getLsbD 1 = s.done ∧
    s.statusWord.getLsbD 2 = s.success ∧ s.statusWord.getLsbD 3 = s.stepReady ∧
    s.statusWord.getLsbD 4 = s.wbusy ∧ s.statusWord.extractLsb' 5 3 = 0#3 ∧
    s.statusWord.extractLsb' 8 4 = s.err.code ∧ s.statusWord.extractLsb' 12 20 = 0#20 := by
  unfold State.statusWord
  generalize s.busy = a, s.done = b, s.success = c, s.stepReady = d, s.wbusy = e
  cases s.err <;> revert a b c d e <;> decide

end Sys2Proof.Machine
end

