-- ==== Sys2Proof/Machine/HostDecoding.lean ====
section
/-! DEFINITION. What the host makes of the block (spec/42_decoder.md R166, R173, spec/70_reset_and_hazards.md R224): the decoding
result it reads, its cycle detection over DEC_STEP, its parameter check and its boot sequence. It stands beside the machine, like
the host programs (log entry 15). -/

namespace Sys2Proof.Machine

/-- The support of a vector: the positions of its ones (spec/00_scope.md R14). -/
def support (v : List Bool) : List Nat := (List.range v.length).filter (bit v)

/-- RBD's `DecodingResult` (R166). -/
structure DecodingResult where
  /-- `(supp(EOUT_0), supp(EOUT_1))` -/
  eOut : List Nat × List Nat
  success : Bool
  iterationsUsed : Nat
  deriving DecidableEq, Repr

/-- The decoding result the block shows after an error-free DECODE (R166). -/
def State.decodingResult (s : State) : DecodingResult where
  eOut := (support (half0 s.params.r s.mem.eout), support (half1 s.params.r s.mem.eout))
  success := s.success
  iterationsUsed := s.iter.toNat

/-- The state after a command has run to its completion. -/
def State.afterCommand (i : Instr) (s : State) : State :=
  match exec i s with
  | .next t => t
  | .fault _ => s
  | .refused _ => s

/-- The decoder's full state in RBD's sense, `(RES, EOUT)` (R173). -/
def State.decoderState (s : State) : List Bool × List Bool := (s.mem.res, s.mem.eout)

/-- The decoder states before and after each of M steps (R173, points 2 and 3). -/
def stepHistory : Nat → State → List (List Bool × List Bool)
  | 0, s => [s.decoderState]
  | n + 1, s => s.decoderState :: stepHistory n (s.afterCommand .decStep)

/-- The first i, and for it the smallest p ≥ 1, with entries i and i + p of a history equal (R173, point 4). -/
def findRepeat (xs : List (List Bool × List Bool)) : Option (Nat × Nat) :=
  (List.range xs.length).findSome? fun i =>
    (((List.range (xs.length - i)).drop 1).find? fun p => xs[i + p]? == xs[i]?).map fun p => (i, p)

/-- Host-side cycle detection with the bound M: `(startIteration, period)`, or `none` when no state repeats or DEC_INIT
ends in an error (R173). That a repeat proves a cycle is true only for a TAU that does not depend on k
(spec/93_implementation_defined.md I4). -/
def detectCycle (M : Nat) (s : State) : Option (Nat × Nat) :=
  if (s.afterCommand .decInit).err = .none then findRepeat (stepHistory M (s.afterCommand .decInit)) else none

/-- The host's `ParameterMismatch` check of a record's `(r, w, t)` against the PARAM registers (spec/00_scope.md R5). -/
def parameterMismatch (r w t : Nat) (paramR paramW paramT : Word) : Bool :=
  !(decide (paramR.toNat = r) && decide (paramW.toNat = w) && decide (paramT.toNat = t))

/-- What the host loads in step 6 of its boot sequence (R224). -/
inductive BootInput where
  /-- the words of the two halves of the error vector, for EIN0 and EIN1 -/
  | error (e0 e1 : List Word)
  /-- the words of the syndrome, for SYN -/
  | syndrome (s : List Word)
  deriving DecidableEq, Repr

/-- The loading of an input (R224 step 6; the windows of spec/20_memory.md R79). -/
def BootInput.lines : BootInput → List Line
  | .error e0 e1 => (Pseudo.ldwin 0x02#32 0#32 e0).expand ++ (Pseudo.ldwin 0x03#32 0#32 e1).expand
  | .syndrome s => (Pseudo.ldwin 0x04#32 0#32 s).expand

/-- The inputs of NW words each that the step names for a command (R224 step 6). -/
def BootInput.fits (nw : Nat) (i : Instr) : BootInput → Bool
  | .error e0 e1 =>
    decide (i = .syndrome ∨ i = .cprod0 ∨ i = .cprod1) && decide (e0.length = nw) && decide (e1.length = nw)
  | .syndrome s => decide (i = .decode ∨ i = .decInit) && decide (s.length = nw)

/-- A reading of results: a register, or entries of a window (R224 step 8). -/
inductive ResultRead where
  | reg (off : BitVec 12) (x : String)
  | win (w i : Word) (xs : List String)
  deriving DecidableEq, Repr

/-- The lines of a reading. -/
def ResultRead.lines : ResultRead → List Line
  | .reg off x => [.rd off x]
  | .win w i xs => (Pseudo.rdwin w i xs).expand

/-- What a host decides before it boots the block (R224). -/
structure BootPlan where
  /-- the parameters of the records it will process (R224 step 3) -/
  r : Word
  w : Word
  t : Word
  nbIter : Word
  /-- whether interrupts are in use: IRQ_EN, the wait of step 7 and the acknowledge of step 8 -/
  irqEn : Bool
  /-- KEYCLASS of the key about to be loaded, 0 if it is unclassified -/
  keyClass : BitVec 2
  h0 : List Word
  h1 : List Word
  input : BootInput
  command : Instr
  results : List ResultRead
  deriving DecidableEq, Repr

/-- The sizes steps 5 and 6 name, for a build: w entries of each key block, and the command's input. -/
def BootPlan.fits (p : Params) (b : BootPlan) : Bool :=
  decide (b.h0.length = p.w) && decide (b.h1.length = p.w) && b.input.fits p.nw b.command

/-- The condition on which step 2 fails: the block is no QSBD of version 1.0 (R224, spec/10_state.md R41). -/
def identityFails : Cond := .or (.not (.isWord "id" 0x51534244#32)) (.not (.isWord "v" 0x00010000#32))

/-- The condition on which step 3 fails: RBD's `ParameterMismatch`, on all four parameters (R224, R5). -/
def BootPlan.mismatch (b : BootPlan) : Cond :=
  .or (.or (.not (.isWord "pr" b.r)) (.not (.isWord "pw" b.w)))
    (.or (.not (.isWord "pt" b.t)) (.not (.isWord "pn" b.nbIter)))

/-- The condition of step 8 that the command ended in an error: STATUS bits 11:8 are not 0 (spec/10_state.md R45). -/
def commandFailed : Cond := .or (.or (.bitIs "s" 8 true) (.bitIs "s" 9 true)) (.or (.bitIs "s" 10 true) (.bitIs "s" 11 true))

/-- The CTRL word of step 4 (spec/10_state.md R43). -/
def BootPlan.ctrl (b : BootPlan) : Word := 0#29 ++ b.keyClass ++ BitVec.ofBool b.irqEn

/-- The lines of each step of R224 that the host runs on the bus; step 1's `poll` is the first. A failed check of step 2 or 3
leaves the program before anything is loaded (R5); an error found in step 8 leaves the results unread. -/
def BootPlan.steps (b : BootPlan) : List (List Line) :=
  [(Pseudo.poll "INIT").expand,
   [.rd 0x000#12 "id", .rd 0x004#12 "v", .ifGoto identityFails "STOP"],
   [.rd 0x008#12 "pr", .rd 0x00C#12 "pw", .rd 0x010#12 "pt", .rd 0x014#12 "pn", .ifGoto b.mismatch "STOP"],
   [.wr 0x018#12 b.ctrl],
   (Pseudo.ldwin 0x00#32 0#32 b.h0).expand ++ (Pseudo.ldwin 0x01#32 0#32 b.h1).expand,
   b.input.lines,
   (Pseudo.cmd b.command).expand ++ (if b.irqEn then [.waitIrq] else (Pseudo.poll "DONE").expand),
   [.rd 0x020#12 "s", .ifGoto commandFailed "FAIL"] ++ b.results.flatMap ResultRead.lines ++ [.label "FAIL"] ++
     (if b.irqEn then Pseudo.ack.expand else []),
   [.label "STOP"]]

/-- The host's boot program: the steps of R224 in their order. -/
def bootSequence (b : BootPlan) : List Line := b.steps.flatten

/-- The boot program without step 4, which the reset values make optional when IRQ_EN = 0 and KEYCLASS = 0 are wanted
(R224). -/
def bootSequenceFromReset (b : BootPlan) : List Line := (b.steps.eraseIdx 3).flatten

/-- Step 1 begins with deasserting `rst`, which is no bus access; then the host runs its program (R224). -/
def boot (prog : List Line) (s : State) : Host.Outcome Session Fault Refusal :=
  match stepOn .releaseRst s with
  | .next m => .next { machine := m, prog := prog, line := 0, vars := [], trace := [] }
  | .fault f => .fault f
  | .refused x => .refused x

end Sys2Proof.Machine
end

