-- ==== Sys2Proof/Laws/Host.lean ====
section
/-! SUPPORT. What the host's boot program checks, and that it is a well-formed program (spec/70_reset_and_hazards.md R224). -/

namespace Sys2Proof.Machine

/-- Step 2 fails exactly when ID or VERSION is not the constant of R41. -/
theorem identityFails_holds_iff (vars : List (String × Word)) : identityFails.holds vars = true ↔
    lookupVar vars "id" ≠ 0x51534244#32 ∨ lookupVar vars "v" ≠ 0x00010000#32 := by
  simp [identityFails, Cond.holds]

/-- Step 3 fails exactly when the host's `ParameterMismatch` check does (R5), or nbIter differs. -/
theorem mismatch_holds_iff (b : BootPlan) (vars : List (String × Word)) : b.mismatch.holds vars = true ↔
    parameterMismatch b.r.toNat b.w.toNat b.t.toNat (lookupVar vars "pr") (lookupVar vars "pw")
        (lookupVar vars "pt") = true ∨ lookupVar vars "pn" ≠ b.nbIter := by
  simp only [BootPlan.mismatch, Cond.holds, parameterMismatch, Bool.or_eq_true, Bool.not_eq_true', beq_eq_false_iff_ne,
    Bool.and_eq_false_iff, decide_eq_false_iff_not, ← BitVec.toNat_inj, ne_eq]
  tauto

/-- Step 8 finds an error exactly when STATUS.ERR is not NONE (R45, R191). -/
theorem commandFailed_holds_iff (vars : List (String × Word)) : commandFailed.holds vars = true ↔
    (lookupVar vars "s").extractLsb' 8 4 ≠ 0#4 := by
  have h : ∀ e : BitVec 4, (e.getLsbD 0 || e.getLsbD 1 || (e.getLsbD 2 || e.getLsbD 3)) = true ↔ e ≠ 0#4 := by decide
  rw [← h]
  simp [commandFailed, Cond.holds]

/-- The CTRL word of step 4 stores what the host wants. -/
theorem storeCtrl_ctrl (b : BootPlan) (s : State) :
    storeCtrl b.ctrl s = { s with irqEn := b.irqEn, keyClass := b.keyClass } := by
  have h : ∀ (k : BitVec 2) (e : Bool), (0#29 ++ k ++ BitVec.ofBool e).getLsbD 0 = e ∧
      (0#29 ++ k ++ BitVec.ofBool e).extractLsb' 1 2 = k := by decide
  obtain ⟨h1, h2⟩ := h b.keyClass b.irqEn
  unfold storeCtrl BootPlan.ctrl
  rw [h1, h2]

@[simp] theorem labelsOf_nil : labelsOf [] = [] := rfl

/-- Only a label line defines a label. -/
@[simp] theorem labelsOf_cons (p : List Line) :
    (∀ l, labelsOf (.label l :: p) = l :: labelsOf p) ∧ (∀ t, labelsOf (.comment t :: p) = labelsOf p) ∧
    (∀ a v, labelsOf (.wr a v :: p) = labelsOf p) ∧ (∀ a x, labelsOf (.rd a x :: p) = labelsOf p) ∧
    (∀ c l, labelsOf (.ifGoto c l :: p) = labelsOf p) ∧ labelsOf (.waitIrq :: p) = labelsOf p :=
  ⟨fun _ => rfl, fun _ => rfl, fun _ _ => rfl, fun _ _ => rfl, fun _ _ => rfl, rfl⟩

@[simp] theorem labelsOf_append (p q : List Line) : labelsOf (p ++ q) = labelsOf p ++ labelsOf q :=
  List.filterMap_append

/-- A program is well formed when its labels are distinct and every jump has its label. -/
theorem programWf_iff (prog : List Line) : Program.wf prog = true ↔
    (labelsOf prog).Nodup ∧ ∀ c l, Line.ifGoto c l ∈ prog → l ∈ labelsOf prog := by
  simp only [Program.wf, Bool.and_eq_true, decide_eq_true_eq, List.all_eq_true]
  refine and_congr_right fun _ => ⟨fun h c l hx => by simpa using h _ hx, fun h x hx => ?_⟩
  cases x with
  | ifGoto c l => simpa using h c l hx
  | label _ | comment _ | wr _ _ | rd _ _ | waitIrq => rfl

/-- Loading a window defines no label and has no jump. -/
@[simp] theorem ldwin_noFlow (w i : Word) (ds : List Word) : labelsOf (Pseudo.ldwin w i ds).expand = [] ∧
    ∀ c l, Line.ifGoto c l ∉ (Pseudo.ldwin w i ds).expand := by
  simp [Pseudo.expand, labelsOf]

@[simp] theorem input_noFlow (x : BootInput) : labelsOf x.lines = [] ∧ ∀ c l, Line.ifGoto c l ∉ x.lines := by
  cases x <;> simp [BootInput.lines]

@[simp] theorem resultRead_noFlow (x : ResultRead) : labelsOf x.lines = [] ∧ ∀ c l, Line.ifGoto c l ∉ x.lines := by
  cases x <;> simp [ResultRead.lines, Pseudo.expand, labelsOf]

@[simp] theorem labelsOf_results (rs : List ResultRead) : labelsOf (rs.flatMap ResultRead.lines) = [] := by
  induction rs with
  | nil => rfl
  | cons x rs ih => simp [ih]

/-- Both boot programs are well formed, whatever the host's plan. -/
theorem bootSequence_wf (b : BootPlan) :
    Program.wf (bootSequence b) = true ∧ Program.wf (bootSequenceFromReset b) = true := by
  have poll : ∀ l, (Pseudo.poll l).expand = [.label l, .rd 0x020#12 "s", .ifGoto (.bitIs "s" 0 true) l] := fun _ => rfl
  have cmd : ∀ i, (Pseudo.cmd i).expand = [.wr 0x01C#12 (encode i)] := fun _ => rfl
  have ack : Pseudo.ack.expand = [.wr 0x024#12 0x7#32] := rfl
  cases h : b.irqEn <;>
    simp [programWf_iff, bootSequence, bootSequenceFromReset, BootPlan.steps, h, poll, cmd, ack] <;> aesop

end Sys2Proof.Machine
end

