-- ==== Sys2Proof/Laws/Key.lean ====
section
/-! SUPPORT. KeyCheck, said once: what the scan of a key store finds, and when a key passes (spec/41_syndrome.md R133). -/

namespace Sys2Proof.Machine

theorem mem_take_iff_getD (x : Word) (l : List Word) (k : Nat) :
    x ∈ l.take k ↔ ∃ k', k' < k ∧ k' < l.length ∧ l.getD k' 0#32 = x := by
  rw [List.mem_iff_getElem]
  constructor
  · rintro ⟨i, hi, h⟩
    simp only [List.length_take, lt_inf_iff] at hi
    exact ⟨i, hi.1, hi.2, by rw [List.getD_eq_getElem _ _ hi.2, ← h]; simp⟩
  · rintro ⟨i, h1, h2, h⟩
    exact ⟨i, by simp; omega, by rw [List.getD_eq_getElem _ _ h2] at h; simpa using h⟩

theorem badEntry_iff (r : Nat) (l : List Word) (k : Nat) :
    BadEntry r l k ↔ k < l.length ∧ (r ≤ (l.getD k 0#32).toNat ∨ l.getD k 0#32 ∈ l.take k) := by
  unfold BadEntry
  refine and_congr_right fun hk => or_congr_right ?_
  rw [mem_take_iff_getD]
  exact ⟨fun ⟨k', h, e⟩ => ⟨k', h, by omega, e⟩, fun ⟨k', h, _, e⟩ => ⟨k', h, e⟩⟩

theorem scanKey_suffix (r : Nat) (l : List Word) (n k : Nat) (hk : k ≤ l.length) (hn : l.length - k = n)
    (hb : ∀ j, j < k → ¬ BadEntry r l j) :
    (∀ m, scanKey r k (l.take k) (l.drop k) = some m ↔ FirstBad r l m) ∧
    (scanKey r k (l.take k) (l.drop k) = none ↔ ∀ j, ¬ BadEntry r l j) := by
  induction n generalizing k with
  | zero =>
    have : k = l.length := by omega
    subst this
    have nb : ∀ j, ¬ BadEntry r l j := fun j hj => hb j hj.1 hj
    simp only [List.drop_length, scanKey, reduceCtorEq, false_iff, true_iff]
    exact ⟨fun m h => nb m h.1, nb⟩
  | succ n ih =>
    have hk' : k < l.length := by omega
    rw [List.drop_eq_getElem_cons hk']
    have hg : l.getD k 0#32 = l[k] := List.getD_eq_getElem _ _ hk'
    unfold scanKey
    split <;> rename_i h
    · have hbk : BadEntry r l k := (badEntry_iff ..).2 ⟨hk', by rwa [hg]⟩
      refine ⟨fun m => ⟨fun h => ?_, fun ⟨h1, h2⟩ => ?_⟩, by simpa using ⟨k, hbk⟩⟩
      · cases h; exact ⟨hbk, fun j hj => hb j hj⟩
      · rcases Nat.lt_trichotomy m k with h | h | h
        · exact absurd h1 (hb m h)
        · rw [h]
        · exact absurd hbk (h2 k h)
    · have hbk : ¬ BadEntry r l k := fun hx => h (by have := ((badEntry_iff ..).1 hx).2; rwa [hg] at this)
      rw [show l.take k ++ [l[k]] = l.take (k + 1) by simp]
      exact ih (k + 1) (by omega) (by omega) fun j hj => by
        rcases Nat.lt_succ_iff_lt_or_eq.1 hj with h | rfl
        · exact hb j h
        · exact hbk

/-- The scan finds the first entry at fault. -/
theorem scanKey_eq_some (r : Nat) (l : List Word) (m : Nat) : scanKey r 0 [] l = some m ↔ FirstBad r l m := by
  simpa using (scanKey_suffix r l _ 0 (by omega) rfl (by simp)).1 m

theorem scanKey_eq_none (r : Nat) (l : List Word) : scanKey r 0 [] l = none ↔ ∀ j, ¬ BadEntry r l j := by
  simpa using (scanKey_suffix r l _ 0 (by omega) rfl (by simp)).2

/-- An entry store without an entry at fault holds distinct values below r. -/
theorem no_badEntry_iff (r : Nat) (l : List Word) :
    (∀ j, ¬ BadEntry r l j) ↔ (∀ x ∈ l, x.toNat < r) ∧ l.Nodup := by
  constructor
  · intro h
    refine ⟨fun x hx => ?_, ?_⟩
    · obtain ⟨i, hi, rfl⟩ := List.mem_iff_getElem.1 hx
      by_contra hc
      exact h i ⟨hi, .inl (by rw [List.getD_eq_getElem _ _ hi]; omega)⟩
    · rw [List.nodup_iff_injective_getElem]
      intro ⟨a, ha⟩ ⟨b, hb⟩ e
      simp only at e
      rcases Nat.lt_trichotomy a b with hlt | hlt | hlt
      · exact absurd ⟨hb, .inr ⟨a, hlt, by
          rw [List.getD_eq_getElem _ _ ha, List.getD_eq_getElem _ _ hb, e]⟩⟩ (h b)
      · subst hlt; rfl
      · exact absurd ⟨ha, .inr ⟨b, hlt, by
          rw [List.getD_eq_getElem _ _ ha, List.getD_eq_getElem _ _ hb, e]⟩⟩ (h a)
  · rintro ⟨h1, h2⟩ j ⟨hj, h | ⟨k, hk, e⟩⟩
    · rw [List.getD_eq_getElem _ _ hj] at h
      have := h1 _ (List.getElem_mem hj); omega
    · have hk' : k < l.length := by omega
      rw [List.getD_eq_getElem _ _ hj, List.getD_eq_getElem _ _ hk'] at e
      have := (List.Nodup.getElem_inj_iff h2).1 e
      omega

/-- A key passes KeyCheck iff each block's entries are distinct and below r. -/
theorem keyValid_iff (s : State) : KeyValid s ↔
    ((∀ x ∈ s.mem.h0, x.toNat < s.params.r) ∧ s.mem.h0.Nodup) ∧
    ((∀ x ∈ s.mem.h1, x.toNat < s.params.r) ∧ s.mem.h1.Nodup) := by
  rw [← no_badEntry_iff, ← no_badEntry_iff, ← scanKey_eq_none, ← scanKey_eq_none]
  unfold KeyValid keyCheck
  cases scanKey s.params.r 0 [] s.mem.h0 <;> simp
  cases scanKey s.params.r 0 [] s.mem.h1 <;> simp

/-- KeyCheck depends on the build and the key alone. -/
theorem keyValid_congr {s t : State} (hp : t.params = s.params) (h0 : t.mem.h0 = s.mem.h0)
    (h1 : t.mem.h1 = s.mem.h1) : KeyValid t ↔ KeyValid s := by
  unfold KeyValid keyCheck; rw [hp, h0, h1]

/-- The entries of a store without an entry at fault, as a set. -/
theorem keySet_of_nodup {l : List Word} (h : l.Nodup) : keySet l = l.map BitVec.toNat :=
  List.dedup_eq_self.2 (h.map fun _ _ h => BitVec.eq_of_toNat_eq h)

theorem keyCheck_code {s : State} {e : CmdError} (h : keyCheck s = some e) : e.code = .invalidKey := by
  unfold keyCheck at h
  split at h
  · cases h; rfl
  · split at h <;> cases h; rfl

end Sys2Proof.Machine
end

