-- ==== Sys2Proof/Laws/PerInstr.lean ====
section
/-! SUPPORT. What is said of every command as syntax, constructor by constructor. -/

/-- The command's word is well formed, decodes to the command, and is the opcode table's row of that command. -/
def Sys2Proof.Laws.RoundTrip.Statement (i : Sys2Proof.Instr) : Prop :=
  Sys2Proof.legalWord (Sys2Proof.encode i) = true ∧
  Sys2Proof.decodeWord (Sys2Proof.encode i) = some i ∧
  (Sys2Proof.encode i, 0xFFFFFFFF#32, i) ∈ Sys2Proof.opcodeTable

namespace Sys2Proof.Laws.RoundTrip

theorem nop : Statement .nop := by unfold Statement; decide
theorem cprod0 : Statement .cprod0 := by unfold Statement; decide
theorem cprod1 : Statement .cprod1 := by unfold Statement; decide
theorem syndrome : Statement .syndrome := by unfold Statement; decide
theorem decode : Statement .decode := by unfold Statement; decide
theorem decInit : Statement .decInit := by unfold Statement; decide
theorem decStep : Statement .decStep := by unfold Statement; decide
theorem clear : Statement .clear := by unfold Statement; decide

end Sys2Proof.Laws.RoundTrip
end

