-- ==== Sys2Proof/Laws/Step.lean ====
section
/-! SUPPORT. What one step of the machine can do, said once: the event it takes (`step_eq_handle`), what each event leads to
(`handle_next_iff`), and what a bus access can change. -/

namespace Sys2Proof.Machine

/-- The event the next step takes: the first pending one, or the engine's turn. -/
def State.nextInput (s : State) : Event := s.inputs.headD .engine

/-- The state with that event taken from the pending ones. -/
def State.popped (s : State) : State := { s with inputs := s.inputs.tail }

@[simp] theorem popped_keeps (s : State) :
    s.popped.params = s.params ∧ s.popped.mem = s.mem ∧ s.popped.iter = s.iter ∧ s.popped.lastTau = s.lastTau ∧
    s.popped.lastMaxUpc = s.lastMaxUpc ∧ s.popped.lastSynW = s.lastSynW ∧ s.popped.resWeight = s.resWeight ∧
    s.popped.errInfo = s.errInfo ∧ s.popped.irqEn = s.irqEn ∧ s.popped.keyClass = s.keyClass ∧
    s.popped.err = s.err ∧ s.popped.doneIrq = s.doneIrq ∧ s.popped.errIrq = s.errIrq ∧
    s.popped.winSel = s.winSel ∧ s.popped.winIdx = s.winIdx ∧ s.popped.seq = s.seq ∧ s.popped.done = s.done ∧
    s.popped.success = s.success ∧ s.popped.stepReady = s.stepReady ∧ s.popped.wbusy = s.wbusy ∧
    s.popped.rst = s.rst ∧ s.popped.rdata = s.rdata ∧ s.popped.fresh = s.fresh :=
  ⟨rfl, rfl, rfl, rfl, rfl, rfl, rfl, rfl, rfl, rfl, rfl, rfl, rfl, rfl, rfl, rfl, rfl, rfl, rfl, rfl, rfl, rfl,
    rfl⟩

/-- A step handles the next event in the state it is taken from. -/
theorem step_eq_handle (s : State) : step s = handle s.nextInput s.popped := by
  obtain ⟨_⟩ := s
  simp only [step, nextEvent, State.nextInput, State.popped]
  split <;> rfl

@[simp] theorem enterReset_params (s : State) (b : Bool) : (s.enterReset b).params = s.params := rfl

/-- What the engine's turn leads to (R112, R220, R222). -/
theorem engineStep_next_iff (s t : State) : engineStep s = .next t ↔
    (s.rst = true ∧ t = s) ∨
    (s.rst = false ∧ s.seq = .init ∧ t = { s with seq := .idle }) ∨
    (s.rst = false ∧ s.seq = .idle ∧ t = s) ∨
    (s.rst = false ∧ ∃ c, s.seq = .busy c ∧
      ((decodeWord c = none ∧ t = raiseCmdError ⟨.illegalCmd, c⟩ s) ∨
       ∃ i, decodeWord c = some i ∧ exec i s = .next t)) := by
  unfold engineStep runCommand
  cases s.rst <;> cases s.seq <;> simp [eq_comm]
  rename_i c
  cases decodeWord c <;> simp [eq_comm]

/-- What an event leads to. -/
theorem handle_next_iff (e : Event) (s t : State) : handle e s = .next t ↔
    (e = .engine ∧ engineStep s = .next t) ∨
    (s.rst = false ∧ ∃ off, e = .read off ∧ t = busRead off s) ∨
    (s.rst = false ∧ ∃ off v, e = .write off v ∧ t = busWrite off v s) ∨
    (e = .assertRst ∧ t = s.enterReset true) ∨
    (e = .releaseRst ∧ t = if s.rst then s.enterReset false else s) := by
  cases e with
  | engine => simp [handle]
  | read off => cases h : s.rst <;> simp [handle, h, @eq_comm _ t]
  | write off v => cases h : s.rst <;> simp [handle, h, @eq_comm _ t]
  | assertRst => simp [handle, @eq_comm _ t]
  | releaseRst => simp [handle, @eq_comm _ t]

/-- A command's meaning always answers a next state. -/
theorem exec_isNext (i : Instr) (s : State) : ∃ t, exec i s = .next t := by
  rw [exec_eq_finish]; exact ⟨_, rfl⟩

/-- The engine's turn always answers a next state. -/
theorem engineStep_isNext (s : State) : ∃ t, engineStep s = .next t := by
  unfold engineStep runCommand; split
  · exact ⟨_, rfl⟩
  · split
    · exact ⟨_, rfl⟩
    · exact ⟨_, rfl⟩
    · split
      · exact exec_isNext ..
      · exact ⟨_, rfl⟩

/-- The engine's turn is the event the next step takes. -/
theorem engineTurn_iff (s : State) : EngineTurn s ↔ s.nextInput = .engine := by
  unfold EngineTurn State.nextInput
  cases s.inputs <;> simp

/-- A step at the engine's turn in `BUSY(c)` runs the command whose word `c` is (R112). -/
theorem step_eq_exec {s : State} {c : Word} {i : Instr} (he : EngineTurn s) (hr : s.rst = false)
    (hs : s.seq = .busy c) (hd : decodeWord c = some i) : step s = exec i s.popped := by
  rw [step_eq_handle, (engineTurn_iff s).1 he]
  simp [handle, engineStep, hr, hs, runCommand, hd]

/-- No command runs while `rst` is asserted (R220). -/
theorem State.Inv.rst_of_busy {s : State} (hI : s.Inv) {c : Word} (hs : s.seq = .busy c) : s.rst = false := by
  cases h : s.rst
  · rfl
  · rw [hI.held h] at hs; cases hs

/-- A read returns the register's value and does nothing else, unless R89 leaves its value unspecified or it advances WIN_IDX
(R77). -/
theorem busRead_exact {off : BitVec 12} {s : State} (h : (s.busy && (regAt off).volatile) = false)
    (hw : regAt off ≠ .winData) : busRead off s = { s with rdata := (regAt off).value s } := by
  simp [busRead, fetchData, h, hw]

/-- WIN_DATA is at 0x048 alone (R76). -/
theorem regAt_eq_winData {a : BitVec 12} (h : regAt a = .winData) : a &&& 0xFFC#12 = 0x048#12 := by
  unfold regAt alignOffset at h
  split at h <;> rename_i hx <;> first | exact BitVec.eq_of_toNat_eq hx | cases h

/-- What a bus read can change: the read data, the count of free values drawn, and WIN_IDX (R77, R83). -/
theorem busRead_eq (off : BitVec 12) (s : State) : ∃ d n i,
    busRead off s = { s with rdata := d, fresh := n, winIdx := i } := by
  unfold busRead fetchData; dsimp only
  split <;> split <;> exact ⟨_, _, _, rfl⟩

/-- What a bus write does, by the register it reaches (R78, R95). -/
theorem busWrite_cases (off : BitVec 12) (v : Word) (s : State) :
    (s.busy = true ∧ busWrite off v s = dropWrite s) ∨
    (s.busy = true ∧ busWrite off v s = (dropWrite s).bumpIdx) ∨
    (s.busy = false ∧ busWrite off v s = storeCtrl v s) ∨
    (s.busy = false ∧ busWrite off v s = accept v s) ∨
    (s.busy = false ∧ busWrite off v s = (s.winWrite v).bumpIdx) ∨
    busWrite off v s = acknowledge v s ∨
    (∃ x, busWrite off v s = { s with winSel := x }) ∨
    (∃ x, busWrite off v s = { s with winIdx := x }) ∨
    busWrite off v s = s := by
  unfold busWrite
  cases regAt off <;> cases s.busy <;> simp

/-- What a WIN_DATA write can change besides WIN_IDX: the data storage and STEP_READY (R84, R86). -/
theorem winWrite_eq (s : State) (x : Word) : ∃ m b, s.winWrite x = { s with mem := m, stepReady := b } := by
  unfold State.winWrite; split
  · split
    · exact ⟨_, _, rfl⟩
    · exact ⟨s.mem, s.stepReady, rfl⟩
  · exact ⟨s.mem, s.stepReady, rfl⟩

end Sys2Proof.Machine
end

