-- ==== Sys2Proof/Tests/Slice0.lean ====
section
/-! SUPPORT. Tests: expected values are those of the encodings of spec/30_encoding.md R101 and of the worked examples V1 to V32 of
spec/95_test_vectors.md, each named where it is used; then, for every statement with hypotheses, a witness that they can hold
together. -/

namespace Sys2Proof.Tests

-- The tests are checked one after another: many at once would each wait in a thread of its own for the kernel.
set_option Elab.async false

open Sys2Proof Sys2Proof.Machine

/-! ### Small states -/

/-- The fixture's sizes with one of the informative configurations (spec/95_test_vectors.md §0). -/
def fixture (a : AlgoId) : Params := ⟨11, 3, 2, 5, a, by decide⟩

/-- S0: after reset and INIT. -/
def idle (p : Params) : State := { State.resetFor p with seq := .idle }

/-- S0 with the key K2 and a SYN word loaded. -/
def k2 (a : AlgoId) (syn : Word) : State :=
  let s := idle (fixture a)
  { s with mem := { s.mem with h0 := [0#32, 1#32, 5#32], h1 := [0#32, 3#32, 4#32], syn := unpackWord s.mem.syn 0 syn } }

/-- A state with words of EIN_0 and EIN_1 loaded. -/
def withEin (s : State) (e0 e1 : Word) : State :=
  { s with mem.ein := unpackWord (zeroV s.params.r) 0 e0 ++ unpackWord (zeroV s.params.r) 0 e1 }

/-- The state a command ends in. -/
def after (i : Instr) (s : State) : State :=
  match exec i s with
  | .next t => t
  | .fault _ => s
  | .refused _ => s

/-- A decoder state prepared by DEC_INIT. -/
def prepared : State := after .decInit (k2 .tc1 0x000000AF#32)

/-- A prepared state in which DEC_STEP runs. -/
def stepping : State := { prepared with seq := .busy 0x00000006#32, done := false }

/-- A state in which a command runs. -/
def running (c : Word) : State := { k2 .tc1 0#32 with seq := .busy c }

/-! ### Decoding: words written out from R100 and R101, RSVD (31:8) above OP (7:0) -/

theorem test_decode_nop : decodeWord 0b00000000000000000000000000000000#32 = some .nop := by decide
theorem test_decode_cprod0 : decodeWord 0b00000000000000000000000000000001#32 = some .cprod0 := by decide
theorem test_decode_cprod1 : decodeWord 0b00000000000000000000000000000010#32 = some .cprod1 := by decide
theorem test_decode_syndrome : decodeWord 0b00000000000000000000000000000011#32 = some .syndrome := by decide
theorem test_decode_decode : decodeWord 0b00000000000000000000000000000100#32 = some .decode := by decide
theorem test_decode_decInit : decodeWord 0b00000000000000000000000000000101#32 = some .decInit := by decide
theorem test_decode_decStep : decodeWord 0b00000000000000000000000000000110#32 = some .decStep := by decide
theorem test_decode_clear : decodeWord 0b00000000000000000000000000000111#32 = some .clear := by decide
theorem test_decode_table : decodeTableWord 32 0x00000005 = some .decInit ∧ decodeTableWord 8 0x05 = some .decInit ∧
    decodeTableWord 32 0x00000500 = none ∧ decodeTableWord 40 0x05 = none := by decide

/-- R103: the words V12 and V13 name. -/
theorem test_decode_refuses : decodeWord 0x00000104#32 = none ∧ decodeWord 0x00000008#32 = none ∧
    decodeWord 0x80000000#32 = none ∧ decodeWord 0x000000FF#32 = none := by decide

/-! ### Well-formedness: an ill-formed term for each check -/

theorem test_wf_instr : [Instr.nop, .cprod0, .cprod1, .syndrome, .decode, .decInit, .decStep, .clear].all Instr.wf := by
  decide
theorem test_wf_rsvd : rsvdClear 0x00000104#32 = false ∧ legalWord 0x00000104#32 = false := by decide
theorem test_wf_op : opKnown 0x00000008#32 = false ∧ legalWord 0x00000008#32 = false ∧ legalWord 0x7#32 = true := by
  decide
theorem test_wf_params_prime : legalParams 9 3 2 5 = false ∧ legalParams 1 1 1 1 = false ∧
    legalParams 0 0 0 0 = false := by decide
theorem test_wf_params_w : legalParams 11 0 2 5 = false ∧ legalParams 11 12 2 5 = false ∧
    legalParams 11 11 2 5 = true := by decide
theorem test_wf_params_t : legalParams 11 3 0 5 = false ∧ legalParams 11 3 23 5 = false ∧
    legalParams 11 3 22 5 = true := by decide
theorem test_wf_params_nbIter : legalParams 11 3 2 0 = false ∧ legalParams 11 3 2 (2 ^ 32) = false ∧
    legalParams 11 3 2 (2 ^ 32 - 1) = true := by decide
theorem test_wf_memory : (Memory.zero (fixture .tc1)).wf (fixture .tc1) = true ∧
    ({ Memory.zero (fixture .tc1) with syn := zeroV 10 }).wf (fixture .tc1) = false ∧
    ({ Memory.zero (fixture .tc1) with h0 := [] }).wf (fixture .tc1) = false ∧
    ({ Memory.zero (fixture .tc1) with upc := List.replicate 22 4 }).wf (fixture .tc1) = false := by decide
theorem test_wf_program : Program.wf (Pseudo.poll "L").expand = true ∧
    Program.wf ((Pseudo.poll "L").expand ++ (Pseudo.poll "L").expand) = false ∧
    Program.wf [.ifGoto (.bitIs "s" 2 false) "FAIL"] = false := by decide

/-! ### The commands -/

/-- V10 -/
theorem test_nop : (after .nop { idle (fixture .tc1) with irqEn := true }).statusWord = 0x00000002#32 ∧
    (after .nop { idle (fixture .tc1) with irqEn := true }).irq = true := by decide +kernel

/-- V1 (K1, e0 = {2}), V2 -/
theorem test_cprod0_golden :
    packWord (after .cprod0 (withEin { k2 .tc1 0#32 with mem.h0 := [0#32, 3#32, 7#32] } 0x004#32 0x010#32)).mem.syn 0
      = 0x00000224#32 ∧
    packWord (after .cprod0 (withEin (k2 .tc1 0#32) 0x400#32 0x400#32)).mem.syn 0 = 0x00000411#32 := by decide +kernel

/-- V5 (b): no weight check, ERR_IRQ sticky. -/
theorem test_cprod0_sticky :
    packWord (after .cprod0 (withEin { k2 .tc1 0#32 with errIrq := true } 0x007#32 0#32)).mem.syn 0 = 0x000000E9#32 ∧
    (after .cprod0 (withEin { k2 .tc1 0#32 with errIrq := true } 0x007#32 0#32)).irqStatusWord = 0x00000003#32 := by
  decide +kernel

/-- V2 -/
theorem test_cprod1 : packWord (after .cprod1 (withEin (k2 .tc1 0#32) 0x400#32 0x400#32)).mem.syn 0 = 0x0000040C#32 := by
  decide +kernel

/-- V3 (b): CPROD1 validates H0, and an entry is not reduced mod r. -/
theorem test_cprod1_key :
    (after .cprod1 { k2 .tc1 0#32 with mem.h0 := [0#32, 0x80000001#32, 5#32] }).statusWord = 0x00000202#32 ∧
    (after .cprod1 { k2 .tc1 0#32 with mem.h0 := [0#32, 0x80000001#32, 5#32] }).errInfo = 0x00000001#32 := by decide +kernel

/-- V9 -/
theorem test_syndrome : packWord (after .syndrome (withEin (k2 .tc1 0#32) 0x008#32 0x080#32)).mem.syn 0 = 0x00000599#32 := by
  decide +kernel

/-- V8: H0's duplicate before H1's and before the weight; V5 (a): the weight. -/
theorem test_syndrome_errors :
    (after .syndrome (withEin { k2 .tc1 0#32 with mem.h0 := [0#32, 1#32, 0#32] } 0x7FF#32 0#32)).errInfo = 2#32 ∧
    (after .syndrome (withEin (k2 .tc1 0#32) 0x007#32 0#32)).statusWord = 0x00000302#32 ∧
    (after .syndrome (withEin (k2 .tc1 0#32) 0x007#32 0#32)).errInfo = 3#32 := by decide +kernel

/-- V22: TC1, five iterations, no success. -/
theorem test_decode_fails :
    (after .decode (k2 .tc1 0x065#32)).statusWord = 0x0000000A#32 ∧ (after .decode (k2 .tc1 0x065#32)).iter = 5#32 ∧
    packWord (after .decode (k2 .tc1 0x065#32)).mem.res 0 = 0x000000F2#32 ∧
    packWord (half0 11 (after .decode (k2 .tc1 0x065#32)).mem.gray) 0 = 0x00000063#32 := by decide +kernel

/-- V23: TC2, the two mask passes, success with EOUT ≠ E. -/
theorem test_decode_passes :
    (after .decode (k2 .tc2 0x1B3#32)).statusWord = 0x0000000E#32 ∧ (after .decode (k2 .tc2 0x1B3#32)).iter = 3#32 ∧
    packWord (half0 11 (after .decode (k2 .tc2 0x1B3#32)).mem.eout) 0 = 0x00000499#32 ∧
    packWord (half1 11 (after .decode (k2 .tc2 0x1B3#32)).mem.eout) 0 = 0x000001B1#32 ∧
    packWord (half1 11 (after .decode (k2 .tc2 0x1B3#32)).mem.gray) 0 = 0x000006ED#32 := by decide +kernel

/-- V25, first command. -/
theorem test_decInit : prepared.statusWord = 0x0000000A#32 ∧ packWord prepared.mem.res 0 = 0x000000AF#32 ∧
    prepared.resWeight = 6#32 := by decide +kernel

/-- V4 (its key, DEC_INIT checked like DECODE). -/
theorem test_decInit_key :
    (after .decInit { k2 .tc1 0#32 with mem.h1 := [3#32, 0#32, 3#32] }).errInfo = 0x80000002#32 := by decide +kernel

/-- V25, second command. -/
theorem test_decStep : (after .decStep prepared).statusWord = 0x0000000E#32 ∧ (after .decStep prepared).iter = 1#32 ∧
    packWord (half0 11 (after .decStep prepared).mem.eout) 0 = 0x00000005#32 ∧
    (after .decStep prepared).lastTau = 2#32 := by decide +kernel

/-- V30: ITER saturates; V26: NOT_READY. -/
theorem test_decStep_edges :
    (after .decStep { prepared with iter := 0xFFFFFFFF#32 }).iter = 0xFFFFFFFF#32 ∧
    (after .decStep (idle (fixture .tc1))).statusWord = 0x00000402#32 := by decide +kernel

/-- V11 -/
theorem test_clear :
    (after .clear { prepared with keyClass := 2#2, wbusy := true }).statusWord = 0x00000002#32 ∧
    (after .clear { prepared with keyClass := 2#2, wbusy := true }).mem.h0 = [0#32, 1#32, 5#32] ∧
    packWord (after .clear prepared).mem.syn 0 = 0#32 := by decide +kernel

/-! ### The bus -/

/-- V18: alignment, reserved offsets, reserved bits. -/
theorem test_bus_registers : regRead 0x003#12 (k2 .tc1 0#32) = 0x51534244#32 ∧ regRead 0x100#12 (k2 .tc1 0#32) = 0#32 ∧
    regRead 0x018#12 (busWrite 0x018#12 0xFFFFFFFF#32 (k2 .tc1 0#32)) = 0x00000007#32 ∧
    regRead 0x040#12 (busWrite 0x040#12 0x000001FF#32 (k2 .tc1 0#32)) = 0x000000FF#32 := by decide +kernel

/-- V14: a dropped WIN_DATA write and what STATUS then reads. -/
theorem test_bus_busy :
    (busWrite 0x048#12 0x7FF#32 (running 5#32)).winIdx = 1#32 ∧
    regRead 0x020#12 (busWrite 0x01C#12 6#32 (running 5#32)) = 0x00000011#32 := by decide +kernel

/-- V16: padding; V17: WIN_IDX wraps; V15: past the end. -/
theorem test_bus_windows :
    packWord (busWrite 0x048#12 0xFFFFFFFF#32 { idle (fixture .tc1) with winSel := 4#8 }).mem.syn 0 = 0x000007FF#32 ∧
    (busRead 0x048#12 { idle (fixture .tc1) with winIdx := 0xFFFFFFFF#32 }).winIdx = 0#32 ∧
    regRead 0x048#12 { k2 .tc1 0#32 with winIdx := 2#32 } = 5#32 ∧
    regRead 0x048#12 { k2 .tc1 0#32 with winIdx := 3#32 } = 0#32 := by decide +kernel

/-- V29: a stored key entry ends the step sequence whatever its value. -/
theorem test_bus_key : (busWrite 0x048#12 0#32 prepared).statusWord = 0x00000002#32 := by decide +kernel

/-- V19: the acknowledge of one bit. -/
theorem test_bus_acknowledge :
    regRead 0x024#12 (busWrite 0x024#12 2#32 { k2 .tc1 0#32 with doneIrq := true, errIrq := true }) = 1#32 := by decide +kernel

/-- V12, by a step: an illegal word. -/
theorem test_step_illegal : ∃ t, step (running 0x00000104#32) = .next t ∧ t.statusWord = 0x00000102#32 ∧
    t.errInfo = 0x00000104#32 := ⟨_, rfl, by decide +kernel, by decide +kernel⟩

/-- R222, R223: INIT ends; an access during reset is refused. -/
theorem test_step_reset : step State.reset = .next { State.reset with seq := .idle } ∧
    step { State.reset with rst := true, inputs := [.read 0#12] } = .refused .accessDuringReset := ⟨rfl, rfl⟩

/-- The encoding of a transaction, as in P1. -/
theorem test_host_render : (Txn.write 0x048#12 0xAF#32).render = "W 048 000000AF".toList := by decide +kernel

/-- P2's branch falls through when SUCCESS = 1. -/
theorem test_host_branch : Cond.holds [("s", 0x0000000E#32)] (.bitIs "s" 2 false) = false := by decide +kernel

/-- V31 and V25: the cycles the host finds. -/
theorem test_host_cycle :
    detectCycle 2 { k2 .tc1 0x224#32 with mem := { (k2 .tc1 0x224#32).mem with
      h0 := [0#32, 3#32, 7#32], h1 := [1#32, 5#32, 9#32] } } = some (0, 2) ∧
    detectCycle 2 (k2 .tc1 0x0AF#32) = some (1, 1) := by decide +kernel

/-- P2: the host reads `DecodingResult{eOut = ({0, 2}, ∅), success = true, iterationsUsed = 1}`. -/
theorem test_host_result : (after .decode (k2 .tc1 0x0AF#32)).decodingResult = ⟨([0, 2], []), true, 1⟩ := by decide +kernel

/-- R224: a host that decodes V20's syndrome under K2 on the fixture, with interrupts in use. -/
def bootPlan : BootPlan :=
  { r := 11#32, w := 3#32, t := 2#32, nbIter := 5#32, irqEn := true, keyClass := 0#2, h0 := [0#32, 1#32, 5#32],
    h1 := [0#32, 3#32, 4#32], input := .syndrome [0x0AF#32], command := .decode,
    results := [.win 0x06#32 0#32 ["e0"], .win 0x07#32 0#32 ["e1"], .reg 0x028#12 "n"] }

/-- Its bus writes are those P2 encodes for the same work: CTRL, the key, SYN, CMD, the result windows, the acknowledge. -/
theorem test_host_boot : (bootSequence bootPlan).filterMap (fun | .wr a v => some (a, v) | _ => none) =
    [(0x018#12, 1#32), (0x040#12, 0#32), (0x044#12, 0#32), (0x048#12, 0#32), (0x048#12, 1#32), (0x048#12, 5#32),
     (0x040#12, 1#32), (0x044#12, 0#32), (0x048#12, 0#32), (0x048#12, 3#32), (0x048#12, 4#32),
     (0x040#12, 4#32), (0x044#12, 0#32), (0x048#12, 0x0AF#32), (0x01C#12, 4#32),
     (0x040#12, 6#32), (0x044#12, 0#32), (0x040#12, 7#32), (0x044#12, 0#32), (0x024#12, 7#32)] ∧
    bootPlan.fits (fixture .tc1) = true := by decide +kernel

/-- Step 3 compares all four parameters, and step 8 looks at bits 11:8 of STATUS (V3's 0x202 is an error, P2's 0xE is none). -/
theorem test_host_boot_checks :
    bootPlan.mismatch.holds [("pr", 11#32), ("pw", 3#32), ("pt", 2#32), ("pn", 5#32)] = false ∧
    bootPlan.mismatch.holds [("pr", 11#32), ("pw", 3#32), ("pt", 2#32), ("pn", 6#32)] = true ∧
    commandFailed.holds [("s", 0x00000202#32)] = true ∧ commandFailed.holds [("s", 0x0000000E#32)] = false := by
  decide +kernel

/-! ### Witnesses: the hypotheses of each statement hold together -/

/-- The invariant of an idle state with the key K2, whatever its window registers hold. -/
theorem k2_inv (sel : BitVec 8) (idx : Word) : ({ k2 .tc1 0#32 with winSel := sel, winIdx := idx }).Inv :=
  ⟨(by decide +kernel : (k2 .tc1 0#32).mem.wf (fixture .tc1) = true),
    (by decide +kernel : 0#32 = BitVec.ofNat 32 (popcount (zeroV 11))), nofun, nofun, nofun, fun h => absurd rfl h, nofun⟩

theorem running_inv (c : Word) : (running c).Inv :=
  ⟨(k2_inv 0#8 0#32).memWf, (k2_inv 0#8 0#32).weight, nofun, nofun, nofun, fun _ => ⟨rfl, rfl⟩, nofun⟩

theorem k2_tc2_inv : (k2 .tc2 0#32).Inv :=
  ⟨by decide +kernel, by decide +kernel, nofun, nofun, nofun, fun h => absurd rfl h, nofun⟩

theorem prepared_inv : prepared.Inv :=
  ⟨by decide +kernel, by decide +kernel, fun _ => by unfold KeyValid; decide +kernel, by decide +kernel,
    by decide +kernel, by decide +kernel, by decide +kernel⟩

theorem stepping_inv : stepping.Inv :=
  ⟨by decide +kernel, by decide +kernel, fun _ => by unfold KeyValid; decide +kernel, by decide +kernel,
    by decide +kernel, by decide +kernel, by decide +kernel⟩

theorem k2_valid (a : AlgoId) (v : Word) : KeyValid (k2 a v) := by
  have h0 : (k2 a v).mem.h0 = [0#32, 1#32, 5#32] := rfl
  have h1 : (k2 a v).mem.h1 = [0#32, 3#32, 4#32] := rfl
  have hr : (k2 a v).params.r = 11 := rfl
  rw [keyValid_iff, h0, h1, hr]
  simp

/-- The engine's turn in any state answers a next state. -/
theorem turn (s : State) (h : s.nextInput = .engine) : ∃ t, step s = .next t := by
  rw [step_eq_handle, h]; exact engineStep_isNext _

/-- The engine's turn in a state in which a command runs. -/
theorem step_after {s : State} {c : Word} {i : Instr} (hi : s.inputs = []) (hr : s.rst = false) (hs : s.seq = .busy c)
    (hd : decodeWord c = some i) : step s = .next (after i s) := by
  obtain ⟨t, ht⟩ := exec_isNext i s
  simp [step, nextEvent, hi, engineStep, hr, hs, runCommand, hd, after, ht]

theorem witness_ElaborationRefusesExactlyIllegalParameters :
    (∃ p, Params.elaborate 2 2 4 4294967295 .tc1 = some p) ∧ Params.elaborate 2 2 5 1 .tc1 = none := ⟨⟨_, rfl⟩, rfl⟩

theorem witness_ResetGivesEveryElementItsValue : ∃ p s, s = State.resetFor p := ⟨Config.params, _, rfl⟩

theorem witness_ResetMeetsTheInvariant : State.reset.IsReset := ⟨Config.params, [], rfl⟩

theorem witness_EveryStepKeepsTheInvariant : (stepping.Inv ∧ ∃ t, step stepping = .next t) ∧
    ∃ s t, s.Inv ∧ s.rst = true ∧ step s = .next t :=
  ⟨⟨stepping_inv, turn _ rfl⟩, State.reset.enterReset true, _,
    ⟨by decide +kernel, by decide +kernel, nofun, nofun, nofun, fun _ => ⟨rfl, rfl⟩, fun _ => rfl⟩, rfl, rfl⟩

theorem witness_NoStepChangesTheBuild : ∃ t, step State.reset = .next t := ⟨_, rfl⟩

theorem witness_OnlyAccessesDuringResetAreRefused :
    step { State.reset with rst := true, inputs := [.read 0xFFF#12] } = .refused .accessDuringReset ∧
    step { State.reset with rst := true, inputs := [.write 0x01C#12 0#32] } = .refused .accessDuringReset := ⟨rfl, rfl⟩

theorem witness_StepRunsTheDecodedCommand :
    ((running 4#32).rst = false ∧ (running 4#32).seq = .busy 4#32 ∧ decodeWord 4#32 = some .decode ∧
      (running 4#32).inputs = []) ∧
    ({ running 4#32 with inputs := [.engine] }).inputs = .engine :: [] ∧ decodeTableWord 32 4 = some .decode ∧
    decodeTableWord 8 7 = some .clear := ⟨⟨rfl, rfl, by decide, rfl⟩, rfl, by decide, by decide⟩

theorem witness_InitPhaseEndsInIdle : (State.reset.rst = false ∧ State.reset.seq = .init ∧ State.reset.inputs = []) ∧
    ({ State.reset with inputs := [.engine] }).inputs = .engine :: [] := ⟨⟨rfl, rfl, rfl⟩, rfl⟩

theorem witness_ResetAbandonsWhateverRuns : ({ running 4#32 with inputs := [.assertRst] }).inputs = .assertRst :: [] ∧
    (let s := { State.reset.enterReset true with inputs := [.engine] }; s.rst = true ∧ s.inputs = .engine :: []) ∧
    (let s := { State.reset.enterReset true with inputs := [.releaseRst] }
     s.rst = true ∧ s.inputs = .releaseRst :: []) := ⟨rfl, ⟨rfl, rfl⟩, rfl, rfl⟩

theorem witness_DecodeAndEncodeAgree : decodeWord 6#32 = some .decStep := by decide

theorem witness_IllegalWordsCompleteWithIllegalCmd : ∀ c ∈ [0x00000008#32, 0x000000FF#32, 0x00000104#32, 0x80000000#32],
    (∀ inp ∈ [[], [Event.engine]], let s := { running c with inputs := inp }
      s.rst = false ∧ s.seq = .busy c ∧ ∃ es, s.inputs = [] ∧ es = [] ∨ s.inputs = .engine :: es) ∧
    (0x08 ≤ (c.extractLsb' 0 8).toNat ∨ c.extractLsb' 8 24 ≠ 0#24) :=
  fun c h => ⟨fun inp h' => ⟨rfl, rfl, [], by fin_cases h' <;> simp⟩, by fin_cases h <;> decide⟩

theorem witness_RegisterSpaceAddressing : 0x003#12 &&& 0xFFC#12 = 0x000#12 &&& 0xFFC#12 ∧
    0x04C ≤ (0x04C#12 &&& 0xFFC#12).toNat ∧ 0x04C ≤ (0xFFF#12 &&& 0xFFC#12).toNat := by decide

theorem witness_ConstantAndReadOnlyRegisters : 0x03C#12 ∈ [0x000#12, 0x004#12, 0x008#12, 0x00C#12, 0x010#12, 0x014#12,
    0x020#12, 0x028#12, 0x02C#12, 0x030#12, 0x034#12, 0x038#12, 0x03C#12] := by decide

theorem witness_CtrlReadsBackItsFields : (k2 .tc1 0#32).seq = .idle := rfl

theorem witness_CmdWriteIsAcceptedOnlyWhenIdle : (k2 .tc1 0#32).seq = .idle ∧ (running 4#32).seq ≠ .idle ∧
    State.reset.seq ≠ .idle := ⟨rfl, nofun, nofun⟩

theorem witness_BusyWritesAreDroppedAndRecorded : (running 4#32).seq ≠ .idle ∧ ∀ a ∈ [0x000#12, 0x020#12, 0x04C#12, 0xFFF#12],
    a &&& 0xFFC#12 ∉ [0x018#12, 0x01C#12, 0x024#12, 0x040#12, 0x044#12, 0x048#12] := ⟨nofun, by simp⟩

theorem witness_BusyResultReadsAreFree : (running 4#32).seq ≠ .idle ∧ State.reset.seq ≠ .idle ∧
    0x028#12 ∈ [0x028#12, 0x02C#12, 0x030#12, 0x034#12, 0x038#12, 0x03C#12] ∧
    0x04C ≤ (0x04C#12 &&& 0xFFC#12).toNat ∧ 0x04C ≤ (0xFFF#12 &&& 0xFFC#12).toNat :=
  ⟨nofun, nofun, by decide, by decide, by decide⟩

theorem witness_IdleResultReadsAreExact : prepared.seq = .idle ∧
    0x047#12 &&& 0xFFC#12 ≠ 0x048#12 ∧ 0x04C#12 &&& 0xFFC#12 ≠ 0x048#12 := by decide +kernel

theorem witness_VectorWindowsReadPackedWords :
    ∀ sel ∈ [0x02#8, 0x03#8, 0x04#8, 0x05#8, 0x06#8, 0x07#8, 0x08#8, 0x09#8, 0x0A#8, 0x0B#8],
    let s := { k2 .tc1 0#32 with winSel := sel, winIdx := 0#32 }
    s.Inv ∧ s.seq = .idle ∧ s.winSel = sel ∧ ∃ v, (sel, v) ∈ [(0x02#8, s.mem.ein.take s.params.r),
      (0x03#8, s.mem.ein.drop s.params.r), (0x04#8, s.mem.syn), (0x05#8, s.mem.res),
      (0x06#8, s.mem.eout.take s.params.r), (0x07#8, s.mem.eout.drop s.params.r),
      (0x08#8, s.mem.black.take s.params.r), (0x09#8, s.mem.black.drop s.params.r),
      (0x0A#8, s.mem.gray.take s.params.r), (0x0B#8, s.mem.gray.drop s.params.r)] := by
  intro sel h
  refine ⟨k2_inv sel 0#32, rfl, rfl, ?_⟩
  fin_cases h <;>
  · apply Exists.intro
    repeat first | exact List.mem_cons_self | apply List.mem_cons_of_mem

theorem witness_KeyCounterAndReservedWindowsRead : ∀ sel ∈ [0x00#8, 0x01#8, 0x0C#8, 0x0D#8, 0x0E#8, 0xFF#8],
    ∀ idx ∈ [0#32, 2#32, 3#32, 10#32, 11#32], let s := { k2 .tc1 0#32 with winSel := sel, winIdx := idx }
    s.Inv ∧ s.seq = .idle ∧ s.winSel = sel ∧ (sel = 0x0E#8 → 0x0E ≤ s.winSel.toNat) :=
  fun sel _ idx _ => ⟨k2_inv sel idx, rfl, rfl, fun h => by subst h; simp⟩

theorem witness_VectorWindowWritesStoreOneWord : ∀ sel ∈ [0x02#8, 0x03#8, 0x04#8], ∃ t,
    let s := { k2 .tc1 0#32 with winSel := sel, winIdx := 0#32 }
    s.Inv ∧ s.seq = .idle ∧ t = busWrite 0x048#12 0xFFFFFFFF#32 s ∧ s.winSel = sel ∧ 10 < s.params.r ∧
      s.params.r ≤ 11 := 
  fun sel _ => ⟨_, k2_inv sel 0#32, rfl, rfl, rfl, (by decide : 10 < 11), (by decide : 11 ≤ 11)⟩

theorem witness_KeyWritesEndAStepSequence :
    (∀ sel ∈ [0x00#8, 0x01#8], let s := { k2 .tc1 0#32 with winSel := sel, winIdx := 2#32 }
      s.seq = .idle ∧ s.winSel = sel ∧ s.winIdx.toNat < s.params.w) ∧
    (let s := { k2 .tc1 0#32 with winIdx := 3#32 }; s.winSel = 0x00#8 ∧ s.params.w ≤ s.winIdx.toNat) ∧
    (running 4#32).winSel = 0x00#8 ∧ (running 4#32).seq ≠ .idle :=
  ⟨fun sel _ => ⟨rfl, rfl, (by decide : 2 < 3)⟩, ⟨rfl, (by decide : 3 ≤ 3)⟩, rfl, nofun⟩

theorem witness_DroppedWindowWritesOnlyAdvance :
    ∀ p ∈ [(0x05#8, 0#32), (0xFF#8, 0#32), (0x00#8, 3#32), (0x01#8, 3#32), (0x02#8, 1#32), (0x04#8, 1#32)],
    let s := { k2 .tc1 0#32 with winSel := p.1, winIdx := p.2 }
    s.seq = .idle ∧ (0x05 ≤ s.winSel.toNat ∨ (s.winSel.toNat < 2 ∧ s.params.w ≤ s.winIdx.toNat) ∨
      (2 ≤ s.winSel.toNat ∧ s.winSel.toNat < 5 ∧ s.params.r ≤ 32 * s.winIdx.toNat)) := by
  intro p h
  fin_cases h <;> exact ⟨rfl, by decide +kernel⟩

theorem witness_CirculantProductIsTheParityOfShifts :
    [0, 1, 5].Nodup ∧ (∀ p ∈ [0, 1, 5], p < 11) ∧ (zeroV 11).length = 11 ∧ 10 < 11 := by decide

theorem witness_CirculantProductReadsAdjacentPositions :
    [0, 1, 5].Nodup ∧ (∀ p ∈ [0, 1, 5], p < 11) ∧ (zeroV 11).length = 11 ∧ 10 < 11 ∧ 0 < 11 := by decide

theorem witness_CirculantProductLaws : 0 < 11 ∧ 10 < 11 ∧ [0, 1, 5].Nodup ∧ [0, 3, 4].Nodup ∧
    (∀ p ∈ [0, 1, 5], p < 11) ∧ (∀ p ∈ [0, 3, 4], p < 11) ∧ (zeroV 11).length = 11 := by decide

theorem witness_RotateAccumulationIsTheProduct : (∀ p ∈ [0, 10], p < 11) ∧ (zeroV 11).length = 11 := by decide

theorem witness_CountersCountUnsatisfiedAdjacentChecks : [0, 1, 5].Nodup ∧ [0, 3, 4].Nodup ∧
    (∀ p ∈ [0, 1, 5], p < 11) ∧ (∀ p ∈ [0, 3, 4], p < 11) ∧ (zeroV 11).length = 11 ∧
    (10 < 2 * 11 ∧ 10 < 11) ∧ (11 < 2 * 11 ∧ 11 ≤ 11) ∧ 21 < 2 * 11 := by decide

theorem witness_MaximumCounterAndWeight : prepared.Inv ∧ (k2 .tc1 0#32).Inv ∧
    isZero (k2 .tc1 0#32).mem.res = true ∧ 21 < 2 * (k2 .tc1 0#32).params.r :=
  ⟨prepared_inv, k2_inv 0#8 0#32, by decide +kernel, by decide⟩

theorem witness_KeyCheckReportsTheFirstFault :
    (let s := { k2 .tc1 0#32 with mem.h0 := [0#32, 1#32, 0#32] }
     s.mem.wf s.params = true ∧ FirstBad s.params.r s.mem.h0 2) ∧
    (let s := { k2 .tc1 0#32 with mem.h1 := [11#32, 0#32, 0#32] }
     s.mem.wf s.params = true ∧ (∀ j, ¬ BadEntry s.params.r s.mem.h0 j) ∧ FirstBad s.params.r s.mem.h1 0) ∧
    (∀ j, ¬ BadEntry 11 (k2 .tc1 0#32).mem.h0 j) ∧ (∀ j, ¬ BadEntry 11 (k2 .tc1 0#32).mem.h1 j) :=
  ⟨⟨by decide +kernel, (scanKey_eq_some ..).1 (by decide)⟩,
    ⟨by decide +kernel, (scanKey_eq_none ..).1 (by decide), (scanKey_eq_some ..).1 (by decide)⟩,
    (scanKey_eq_none ..).1 (by decide), (scanKey_eq_none ..).1 (by decide)⟩

theorem witness_InvalidKeyIsRejectedWithoutEffect :
    ∃ e, keyCheck (idle (fixture .tc1)) = some e ∧
      Instr.decInit ∈ [Instr.cprod0, Instr.cprod1, Instr.syndrome, Instr.decode, Instr.decInit] :=
  ⟨_, rfl, by decide⟩

theorem witness_WrongWeightIsRejectedWithoutEffect : let s := withEin (k2 .tc1 0#32) 0x007#32 0#32
    KeyValid s ∧ popcount (s.mem.ein.take s.params.r) + popcount (s.mem.ein.drop s.params.r) ≠ s.params.t :=
  ⟨k2_valid .tc1 0#32, by decide +kernel⟩

theorem witness_UnpreparedStepIsNotReady : (k2 .tc1 0#32).stepReady = false := rfl

theorem witness_ErrorsArePrecise :
    (∃ t, exec .decStep (k2 .tc1 0#32) = .next t ∧ t.err ≠ .none) ∧
    ∃ t, exec .nop (k2 .tc1 0#32) = .next t ∧ t.err = .none := ⟨⟨_, rfl, nofun⟩, _, rfl, rfl⟩

theorem witness_SyndromeCommandsWriteSyn : let s := withEin (k2 .tc1 0#32) 0x008#32 0x080#32
    KeyValid s ∧ popcount (s.mem.ein.take s.params.r) + popcount (s.mem.ein.drop s.params.r) = s.params.t :=
  ⟨k2_valid .tc1 0#32, by decide +kernel⟩

theorem witness_DecInitPreparesTheDecoder : KeyValid (k2 .tc1 0x0AF#32) := k2_valid ..

theorem witness_DecodeRunsToZeroOrTheBound : KeyValid (k2 .tc1 0x065#32) ∧ KeyValid (k2 (.impl 0) 0x0AF#32) :=
  ⟨k2_valid .., k2_valid ..⟩

theorem witness_DecStepRunsOneIteration : prepared.stepReady = true ∧
    (let s := { prepared with iter := 0xFFFFFFFF#32 }
     s.stepReady = true ∧ s.iter = 0xFFFFFFFF#32 ∧ s.iter ≠ 0#32) := by decide +kernel

theorem witness_SuccessSaysWhetherResIsZero :
    (∃ t, exec .decode (k2 .tc1 0#32) = .next t ∧ t.err = .none) ∧
    (∃ t, exec .decInit (k2 .tc1 0#32) = .next t ∧ t.err = .none) ∧
    ∃ t, exec .decStep prepared = .next t ∧ t.err = .none := by
  refine ⟨⟨_, exec_of_check_none (i := .decode) (k2_valid .tc1 0#32), rfl⟩,
    ⟨_, exec_of_check_none (i := .decInit) (k2_valid .tc1 0#32), rfl⟩, _, exec_of_check_none (i := .decStep) ?_, rfl⟩
  decide +kernel

theorem witness_LaterIterationsFlipAboveThreshold : ∃ (A : Algo) (s t : State) (u : List Nat) (F : List Bool) (τ : Nat),
    s.Inv ∧ 2#32 ≠ 1#32 ∧ t = iteration A 2#32 s ∧ u = upcOf s.params.r s.key0 s.key1 s.mem.res ∧
    τ = A.tau 2#32 (popcount s.mem.res) (maxCounter u) s.keyClass ∧
    F = bits (2 * s.params.r) (fun j => decide (τ < u.getD j 0)) :=
  ⟨AlgoId.fns .tc1 3, prepared, _, _, _, _, prepared_inv, by decide, rfl, rfl, rfl, rfl⟩

theorem witness_FirstIterationOverridesTheFlipSet : prepared.Inv ∧ (AlgoId.fns .tc1 3).mode = .override :=
  ⟨prepared_inv, rfl⟩

theorem witness_FirstIterationRunsBlackThenGrayPass : (k2 .tc2 0#32).Inv ∧ (AlgoId.fns .tc2 3).mode = .passes ∧
    ∃ B G, (B, G) = (AlgoId.fns .tc2 3).masks [] 0 0#2 := ⟨k2_tc2_inv, rfl, _, _, rfl⟩

theorem witness_FlipIsTheRecomputedResidual : prepared.Inv ∧ (zeroV 22).length = 2 * prepared.params.r ∧
    prepared.mem.syn.length = prepared.params.r ∧ prepared.mem.res =
      xorV prepared.mem.syn (syndromeOf prepared.params.r prepared.key0 prepared.key1 prepared.mem.eout) :=
  ⟨prepared_inv, by decide +kernel, by decide +kernel, by decide +kernel⟩

theorem witness_ZeroResidualIsAFixedPoint : (k2 .tc1 0#32).Inv ∧ isZero (k2 .tc1 0#32).mem.res = true ∧
    ((0#32 : Word) ≠ 1#32 ∨ (AlgoId.fns .tc1 3).mode = .passes) ∧
    (1#32 ≠ 1#32 ∨ (AlgoId.fns .tc2 3).mode = .passes) ∧ (AlgoId.fns .tc1 3).mode = .override :=
  ⟨k2_inv 0#8 0#32, by decide +kernel, .inl (by decide), .inr rfl, rfl⟩

theorem witness_PreparedStateKeepsItsInputSyndrome :
    (∀ i ∈ [Instr.decode, Instr.decInit], let s := running (encode i)
      s.Inv ∧ EngineTurn s ∧ (s.seq = .busy (encode .decode) ∨ s.seq = .busy (encode .decInit)) ∧ KeyValid s ∧
        ∃ t, step s = .next t) ∧
    (∀ k ∈ [0#32, 0xFFFFFFFE#32, 0xFFFFFFFF#32], let s := { stepping with iter := k }
      s.Inv ∧ EngineTurn s ∧ s.seq = .busy (encode .decStep) ∧ s.stepReady = true ∧ ∃ t, step s = .next t) ∧
    (let s := { stepping with inputs := [.write 0x018#12 1#32] }
     s.Inv ∧ s.stepReady = true ∧ ¬ EngineTurn s ∧ ∃ t, step s = .next t ∧ t.stepReady = true) := by
  have r : stepping.stepReady = true := by decide +kernel
  have inv : ∀ (k : Word) (es : List Event), ({ stepping with iter := k, inputs := es }).Inv := fun k es =>
    ⟨stepping_inv.memWf, stepping_inv.weight, stepping_inv.ready, stepping_inv.judged, stepping_inv.solved,
      stepping_inv.running, fun h => absurd h (by show ¬ stepping.rst = true; decide +kernel)⟩
  refine ⟨fun i h => ⟨running_inv _, .inl rfl, ?_, (keyValid_congr rfl rfl rfl).2 (k2_valid .tc1 0#32), turn _ rfl⟩,
    fun k _ => ?_, ?_⟩
  · fin_cases h
    · exact .inl rfl
    · exact .inr rfl
  · have e : stepping.inputs = [] := by decide +kernel
    exact ⟨inv k stepping.inputs, .inl e, rfl, r, turn _ (by simp [State.nextInput, e])⟩
  · exact ⟨inv stepping.iter _, r, by simp [EngineTurn], busWrite 0x018#12 1#32 { stepping with inputs := [] },
      by simp [step, nextEvent, handle, show stepping.rst = false by decide +kernel], by decide +kernel⟩

theorem witness_SuccessMeansTheFlipsExplainTheSyndrome : (k2 .tc1 0x0AF#32).mem.wf (k2 .tc1 0x0AF#32).params = true ∧
    ∃ t, exec .decode (k2 .tc1 0x0AF#32) = .next t ∧ t.err = .none :=
  ⟨by decide +kernel, _, exec_of_check_none (i := .decode) (k2_valid .tc1 0x0AF#32), rfl⟩

theorem witness_DecodeDependsOnKeySyndromeAndClassAlone : let s := k2 (.impl 7) 0x0AF#32
    let s' := { s with mem := { s.mem with ein := [], res := [] }, iter := 3#32 }
    s.params = s'.params ∧ s.mem.h0 = s'.mem.h0 ∧ s.mem.h1 = s'.mem.h1 ∧ s.mem.syn = s'.mem.syn ∧
    s.keyClass = s'.keyClass ∧ KeyValid s ∧ (∃ t, exec .decode s = .next t) ∧ ∃ t, exec .decode s' = .next t :=
  ⟨rfl, rfl, rfl, rfl, rfl, k2_valid .., exec_isNext .., exec_isNext ..⟩

theorem witness_EntryOrderHasNoEffect : [5#32, 0#32, 1#32].Perm (k2 .tc1 0#32).mem.h0 ∧
    [4#32, 3#32, 0#32].Perm (k2 .tc1 0#32).mem.h1 ∧ (∃ t, exec .nop (k2 .tc1 0#32) = .next t ∧ t.err ≠ .invalidKey) :=
  ⟨by decide, by decide, _, rfl, nofun⟩

theorem witness_OnlyCompletionAndResetEndACommand :
    ∀ es ∈ [[], [Event.engine], [.assertRst], [.releaseRst], [.read 0x048#12], [.write 0x048#12 1#32]],
    let s := { running 0x00000108#32 with inputs := es }
    s.rst = false ∧ s.seq = .busy 0x00000108#32 ∧ ∃ t, step s = .next t := by
  intro es h
  refine ⟨rfl, rfl, ?_⟩
  fin_cases h <;> exact ⟨_, rfl⟩

theorem witness_EveryAcceptedCommandCompletes : (running 4#32).rst = false ∧ (running 4#32).seq = .busy 4#32 ∧
    EngineTurn (running 4#32) ∧ EngineTurn { running 4#32 with inputs := [.engine] } :=
  ⟨rfl, rfl, .inl rfl, .inr ⟨[], rfl⟩⟩

theorem witness_PendingBitsAreSetOnlyByCompletion : ∃ t, step (running 0x00000108#32) = .next t ∧
    (running 0x00000108#32).doneIrq = false ∧ t.doneIrq = true ∧ (running 0x00000108#32).errIrq = false ∧
    t.errIrq = true := ⟨_, rfl, rfl, rfl, rfl, rfl⟩

theorem witness_StepReadyMovesOnlyAsTheRuleSays :
    (∃ t, step (running 5#32) = .next t ∧ (running 5#32).stepReady = false ∧ t.stepReady = true) ∧
    (∃ s t, step s = .next t ∧ s.stepReady = true ∧ t.stepReady = false ∧ s.seq = .busy (encode .clear)) ∧
    ∃ s t, step s = .next t ∧ s.stepReady = true ∧ t.stepReady = false ∧ s.seq = .idle :=
  ⟨⟨_, step_after (i := .decInit) rfl rfl rfl (by decide), rfl, by decide +kernel⟩,
    ⟨{ stepping with seq := .busy 7#32 }, _,
      step_after (i := .clear) (by decide +kernel) (by decide +kernel) rfl (by decide), by decide +kernel,
      by decide +kernel, rfl⟩,
    ⟨{ k2 .tc1 0#32 with stepReady := true, inputs := [.write 0x048#12 0#32] },
      busWrite 0x048#12 0#32 { k2 .tc1 0#32 with stepReady := true }, rfl, rfl, by decide +kernel, rfl⟩⟩

theorem witness_StepReadyUnderErrorsAndReset :
    (∃ t, step (running 0x00000108#32) = .next t ∧ (running 0x00000108#32).seq = .busy 0x00000108#32 ∧
      EngineTurn (running 0x00000108#32) ∧ t.err ≠ .none) ∧
    (∃ t, step { running 6#32 with inputs := [.assertRst] } = .next t) ∧
    (let s := { k2 .tc1 0#32 with stepReady := true, winIdx := 2#32, inputs := [.write 0x048#12 0#32] }
     s.rst = false ∧ s.seq = .idle ∧ s.winSel = 0x00#8 ∧ s.winIdx.toNat < s.params.w) :=
  ⟨⟨_, rfl, rfl, .inl rfl, nofun⟩, ⟨_, rfl⟩, rfl, rfl, rfl, by decide⟩

/-- A session at its first line. -/
def session (l : Line) : Session := ⟨k2 .tc1 0#32, [l], 0, [("s", 1#32)], []⟩

/-- Every form of line (`wr`, `rd`, `if … goto`, a label, a comment, the wait) can be the next one. -/
theorem witness_HostLinesActByBusAccessesAlone (l : Line) :
    (session l).machine.rst = false ∧ (session l).prog[(session l).line]? = some l := ⟨rfl, rfl⟩

theorem witness_HostBranchesAndWaits : Cond.holds [("s", 1#32)] (.bitIs "s" 0 false) = false ∧
    Cond.holds [("s", 1#32)] (.bitIs "s" 0 true) = true ∧ ("t" : String) ≠ "s" ∧
    (session .waitIrq).machine.irq = false ∧ ({ k2 .tc1 0#32 with irqEn := true, doneIrq := true }).irq = true :=
  ⟨by decide, by decide, by decide, rfl, rfl⟩

end Sys2Proof.Tests
end

section
/-! SUPPORT. Elaboration answers a build exactly at the legal parameters (R8, R9), and no step changes the build made. -/

namespace Sys2Proof

/-- The check that computes is primality. -/
theorem isPrime_iff (n : Nat) : isPrime n = true ↔ n.Prime := by
  have noDivisor : (∀ d < n, d < 2 ∨ n % d ≠ 0) ↔ ∀ d, 2 ≤ d → d < n → ¬ d ∣ n := by
    simp only [Nat.dvd_iff_mod_eq_zero, ← not_le, or_iff_not_imp_left, not_not]
    exact forall_congr' fun d => forall_comm
  simp [isPrime, Nat.prime_def_lt', ← noDivisor]

/-- The ranges of R8. -/
theorem legalParams_iff (r w t nbIter : Nat) : legalParams r w t nbIter = true ↔
    r.Prime ∧ r ≤ 2 ^ 31 - 1 ∧ 1 ≤ w ∧ w ≤ r ∧ 1 ≤ t ∧ t ≤ 2 * r ∧ 1 ≤ nbIter ∧ nbIter ≤ 2 ^ 32 - 1 := by
  simp only [legalParams, Bool.and_eq_true, decide_eq_true_eq, isPrime_iff, and_assoc]

theorem Params.elaborate_ne_none_iff (r w t nbIter : Nat) (a : AlgoId) :
    Params.elaborate r w t nbIter a ≠ none ↔ legalParams r w t nbIter = true := by
  simp [Params.elaborate]

theorem Params.elaborate_eq_some {r w t nbIter : Nat} {a : AlgoId} {p : Params}
    (h : Params.elaborate r w t nbIter a = some p) :
    p.r = r ∧ p.w = w ∧ p.t = t ∧ p.nbIter = nbIter ∧ p.algo = a := by
  unfold Params.elaborate at h
  split at h <;> cases h
  exact ⟨rfl, rfl, rfl, rfl, rfl⟩

/-- Settles O1: a build is made exactly when `legalParams` holds, and `legalParams` spells the ranges of R8. -/
theorem elaborationRefusesExactlyIllegalParameters : Obligations.ElaborationRefusesExactlyIllegalParameters := by
  unfold Obligations.ElaborationRefusesExactlyIllegalParameters
  intro r w t nbIter a
  refine ⟨(Params.elaborate_ne_none_iff r w t nbIter a).trans (legalParams_iff r w t nbIter), fun p hp => ?_⟩
  obtain ⟨hr, hw, ht, hn, -⟩ := Params.elaborate_eq_some hp
  exact ⟨hr, hw, ht, hn⟩

end Sys2Proof

namespace Sys2Proof.Machine

@[simp] theorem busRead_params (off : BitVec 12) (s : State) : (busRead off s).params = s.params := by
  obtain ⟨d, n, i, h⟩ := busRead_eq off s
  rw [h]

@[simp] theorem winWrite_params (s : State) (x : Word) : (s.winWrite x).params = s.params := by
  obtain ⟨m, b, h⟩ := winWrite_eq s x
  rw [h]

@[simp] theorem busWrite_params (off : BitVec 12) (v : Word) (s : State) :
    (busWrite off v s).params = s.params := by
  rcases busWrite_cases off v s with
    ⟨-, h⟩ | ⟨-, h⟩ | ⟨-, h⟩ | ⟨-, h⟩ | ⟨-, h⟩ | h | ⟨x, h⟩ | ⟨x, h⟩ | h <;> simp [h]

theorem KeepsHostSide.trans {s t u : State} (h : KeepsHostSide s t) (g : KeepsHostSide t u) : KeepsHostSide s u where
  params := g.params.trans h.params
  h0 := g.h0.trans h.h0
  h1 := g.h1.trans h.h1
  ein := g.ein.trans h.ein
  irqEn := g.irqEn.trans h.irqEn
  keyClass := g.keyClass.trans h.keyClass
  winSel := g.winSel.trans h.winSel
  winIdx := g.winIdx.trans h.winIdx
  rst := g.rst.trans h.rst
  inputs := g.inputs.trans h.inputs
  rdata := g.rdata.trans h.rdata
  fresh := g.fresh.trans h.fresh

/-- A normal completion writes none of the host's side (R113). -/
theorem completeOk_host (s : State) : KeepsHostSide s (completeOk s) := by
  constructor <;> simp

/-- An error's completion writes none of the host's side (R113, R192). -/
theorem raiseCmdError_host (e : CmdError) (s : State) : KeepsHostSide s (raiseCmdError e s) := by
  constructor <;> simp

/-- No command writes the host's side, whether it completes or raises an error (R102). -/
theorem exec_host {i : Instr} {s t : State} (h : exec i s = .next t) : KeepsHostSide s t := by
  rcases (exec_next_iff ..).1 h with ⟨e, -, rfl⟩ | ⟨-, rfl⟩
  · exact raiseCmdError_host e s
  · exact (effectOf_host i s).trans (completeOk_host _)

/-- The engine's turn writes none of the host's side: R112 and R222 move `seq` and the results alone. -/
theorem engineStep_host {s t : State} (h : engineStep s = .next t) : KeepsHostSide s t := by
  rcases (engineStep_next_iff s t).1 h with
    ⟨-, rfl⟩ | ⟨-, -, rfl⟩ | ⟨-, -, rfl⟩ | ⟨-, c, -, ⟨-, rfl⟩ | ⟨i, -, he⟩⟩
  · constructor <;> rfl
  · constructor <;> rfl
  · constructor <;> rfl
  · exact raiseCmdError_host _ s
  · exact exec_host he

theorem handle_params {e : Event} {s t : State} (h : handle e s = .next t) : t.params = s.params := by
  rcases (handle_next_iff e s t).1 h with
    ⟨-, he⟩ | ⟨-, off, -, rfl⟩ | ⟨-, off, v, -, rfl⟩ | ⟨-, rfl⟩ | ⟨-, rfl⟩
  · exact (engineStep_host he).params
  · exact busRead_params off s
  · exact busWrite_params off v s
  · exact enterReset_params s true
  · split
    · exact enterReset_params s false
    · rfl

/-- Settles O5: whatever event the step takes, handling it keeps the build. -/
theorem noStepChangesTheBuild : Obligations.NoStepChangesTheBuild := by
  unfold Obligations.NoStepChangesTheBuild
  intro s t h
  rw [step_eq_handle] at h
  simpa using handle_params h

end Sys2Proof.Machine
end

section
/-! SUPPORT. The machine's invariant is kept: what each command's effect does to STEP_READY, SUCCESS and RES, and then one lemma
per event of a step (R220, R111 to R113, R77, R78). -/

namespace Sys2Proof.Machine

/-! ### What the commands' effects do to STEP_READY, SUCCESS and RES -/

/-- R62: DECODE and DEC_INIT set STEP_READY, CLEAR clears it, and every other command leaves it. -/
theorem effectOf_stepReady (i : Instr) (s : State) : (effectOf i s).stepReady =
    (decide (i = .decode ∨ i = .decInit) || (s.stepReady && decide (i ≠ .clear))) := by
  cases i <;> simp [effectOf, judge]

/-- DecodeLoop ends with SUCCESS saying whether RES is zero (R163). -/
theorem decodeLoop_success (A : Algo) (n : Nat) (s : State) :
    (decodeLoop A n s).success = isZero (decodeLoop A n s).mem.res := by
  obtain ⟨m, -, -, -, h⟩ := decodeLoop_eq A n s
  simp [h]

/-- A command's effect judges its residual (R163), or clears SUCCESS and STEP_READY (R118), or writes neither SUCCESS, STEP_READY
nor RES. -/
theorem effectOf_success_cases (i : Instr) (s : State) :
    (effectOf i s).success = isZero (effectOf i s).mem.res ∨
    ((effectOf i s).success = false ∧ (effectOf i s).stepReady = false) ∨
    ((effectOf i s).success = s.success ∧ (effectOf i s).stepReady = s.stepReady ∧
      (effectOf i s).mem.res = s.mem.res) := by
  cases i
  case decode => exact .inl (by simpa [effectOf] using decodeLoop_success ..)
  case decInit => exact .inl (by simp [effectOf, judge])
  case decStep => exact .inl (by simp [effectOf, judge])
  case clear => exact .inr (.inl (by simp [effectOf]))
  all_goals exact .inr (.inr (by simp [effectOf]))

/-- The invariant's clauses on SUCCESS, after a command's effect. -/
theorem effectOf_judged {s : State} (hI : s.Inv) (i : Instr) :
    ((effectOf i s).stepReady = true → (effectOf i s).success = isZero (effectOf i s).mem.res) ∧
    ((effectOf i s).success = true → isZero (effectOf i s).mem.res = true) := by
  rcases effectOf_success_cases i s with h | ⟨hs, hr⟩ | ⟨hs, hr, hm⟩
  · exact ⟨fun _ => h, fun ht => h ▸ ht⟩
  · simp [hs, hr]
  · rw [hs, hr, hm]
    exact ⟨hI.judged, hI.solved⟩

/-- A command that leaves a prepared decoder state found a valid key: its own KeyCheck passed, or the state was prepared before
(R165). -/
theorem keyValid_of_effectOf_stepReady {s : State} (hI : s.Inv) {i : Instr} (hc : checkOf i s = none)
    (hr : (effectOf i s).stepReady = true) : KeyValid (effectOf i s) := by
  have host := effectOf_host i s
  rw [keyValid_congr host.params host.h0 host.h1]
  rw [effectOf_stepReady] at hr
  by_cases hi : i = .decode ∨ i = .decInit
  · rcases hi with rfl | rfl <;> exact hc
  · exact hI.ready (by simp_all)

/-! ### What a WIN_DATA write stores -/

/-- No window store writes RES (R79, R84). -/
@[simp] theorem Window.store_res (p : Params) (m : Memory) (i : Nat) (x : Word) (w : Window) :
    (w.store p m i x).res = m.res := by cases w <;> rfl

/-- A store into a window that is no key store leaves the key (R86). -/
theorem Window.store_keys (p : Params) (m : Memory) (i : Nat) (x : Word) {w : Window} (h : w.isKey = false) :
    (w.store p m i x).h0 = m.h0 ∧ (w.store p m i x).h1 = m.h1 := by
  cases w
  case h0 => cases h
  case h1 => cases h
  all_goals exact ⟨rfl, rfl⟩

/-- A WIN_DATA write stores an entry of a writable window, or drops it (R84). -/
theorem winWrite_cases (s : State) (x : Word) : s.winWrite x = s ∨
    ∃ w, windowOf s.winSel = some w ∧ w.writable = true ∧ s.winIdx.toNat < w.length s.params ∧
      s.winWrite x = { s with
        mem := w.store s.params s.mem s.winIdx.toNat x
        stepReady := s.stepReady && !w.isKey } := by
  unfold State.winWrite
  split
  · rename_i w hw
    split
    · rename_i h
      obtain ⟨hwr, hlt⟩ := by simpa using h
      exact .inr ⟨w, hw, hwr, hlt, rfl⟩
    · exact .inl rfl
  · exact .inl rfl

/-! ### One lemma per event -/

/-- A step that writes neither the build, the data storage, RES_WEIGHT, STEP_READY nor SUCCESS keeps the invariant, if the clauses
on a running command and on a held reset hold after it. -/
theorem State.Inv.of_same_results {s t : State} (hI : s.Inv) (hp : t.params = s.params) (hm : t.mem = s.mem)
    (hw : t.resWeight = s.resWeight) (hr : t.stepReady = s.stepReady) (hs : t.success = s.success)
    (running : t.seq ≠ .idle → t.done = false ∧ t.err = .none) (held : t.rst = true → t = t.enterReset true) :
    t.Inv where
  memWf := by rw [hm, hp]; exact hI.memWf
  weight := by rw [hm, hw]; exact hI.weight
  ready h := (keyValid_congr hp (by rw [hm]) (by rw [hm])).2 (hI.ready (hr ▸ h))
  judged h := by rw [hm, hs]; exact hI.judged (hr ▸ h)
  solved h := by rw [hm]; exact hI.solved (hs ▸ h)
  running := running
  held := held

/-- The same while `rst` is released, when no block is held in reset. -/
theorem State.Inv.of_same_results_released {s t : State} (hI : s.Inv) (hr : s.rst = false) (hrst : t.rst = s.rst)
    (hp : t.params = s.params) (hm : t.mem = s.mem) (hw : t.resWeight = s.resWeight)
    (hready : t.stepReady = s.stepReady) (hs : t.success = s.success)
    (running : t.seq ≠ .idle → t.done = false ∧ t.err = .none) : t.Inv :=
  hI.of_same_results hp hm hw hready hs running fun h => by rw [hrst, hr] at h; cases h

theorem popped_inv {s : State} (hI : s.Inv) : s.popped.Inv :=
  hI.of_same_results rfl rfl rfl rfl rfl hI.running fun h => congrArg State.popped (hI.held h)

/-- The reset state has the invariant, at either level of `rst` (R221). -/
theorem enterReset_inv (s : State) (level : Bool) : (s.enterReset level).Inv where
  memWf := Memory.zero_wf s.params
  weight := congrArg (BitVec.ofNat 32) (popcount_zeroV s.params.r).symm
  ready := nofun
  judged := nofun
  solved := nofun
  running _ := ⟨rfl, rfl⟩
  held h := by cases (h : level = true); rfl

section
variable {s : State} (hI : s.Inv) (hr : s.rst = false)
include hI hr

theorem busRead_inv (off : BitVec 12) : (busRead off s).Inv := by
  obtain ⟨d, n, i, h⟩ := busRead_eq off s
  rw [h]
  exact hI.of_same_results_released hr rfl rfl rfl rfl rfl rfl hI.running

/-- A WIN_DATA write keeps the invariant: it stores no residual, and a stored key entry clears STEP_READY (R84, R86). -/
theorem winWrite_inv (v : Word) : (s.winWrite v).Inv := by
  rcases winWrite_cases s v with h | ⟨w, -, -, -, h⟩
  · rw [h]; exact hI
  have prepared : (s.stepReady && !w.isKey) = true → s.stepReady = true ∧ w.isKey = false := by simp
  rw [h]
  exact {
    memWf := Window.store_wf hI.memWf w _ v
    weight := by simpa using hI.weight
    ready := fun h' => by
      obtain ⟨hready, hkey⟩ := prepared h'
      obtain ⟨h0, h1⟩ := Window.store_keys s.params s.mem s.winIdx.toNat v hkey
      exact Iff.mpr (keyValid_congr (s := s) rfl h0 h1) (hI.ready hready)
    judged := fun h' => by simpa using hI.judged (prepared h').1
    solved := by simpa using hI.solved
    running := hI.running
    held := fun h' => absurd h' (by simp [hr]) }

theorem winWrite_bumpIdx_inv (v : Word) : (s.winWrite v).bumpIdx.Inv := by
  have hW := winWrite_inv hI hr v
  have released : (s.winWrite v).rst = false := by
    obtain ⟨m, b, h⟩ := winWrite_eq s v
    rw [h]; exact hr
  exact hW.of_same_results_released released rfl rfl rfl rfl rfl rfl hW.running

theorem busWrite_inv (off : BitVec 12) (v : Word) : (busWrite off v s).Inv := by
  rcases busWrite_cases off v s with
    ⟨-, h⟩ | ⟨-, h⟩ | ⟨-, h⟩ | ⟨-, h⟩ | ⟨-, h⟩ | h | ⟨x, h⟩ | ⟨x, h⟩ | h <;> rw [h]
  · exact hI.of_same_results_released hr rfl rfl rfl rfl rfl rfl hI.running
  · exact hI.of_same_results_released hr rfl rfl rfl rfl rfl rfl hI.running
  · exact hI.of_same_results_released hr rfl rfl rfl rfl rfl rfl hI.running
  · exact hI.of_same_results_released hr rfl rfl rfl rfl rfl rfl fun _ => ⟨rfl, rfl⟩
  · exact winWrite_bumpIdx_inv hI hr v
  · exact hI.of_same_results_released hr rfl rfl rfl rfl rfl rfl hI.running
  · exact hI.of_same_results_released hr rfl rfl rfl rfl rfl rfl hI.running
  · exact hI.of_same_results_released hr rfl rfl rfl rfl rfl rfl hI.running
  · exact hI

/-- An error's completion discards every effect (R113, R192). -/
theorem raiseCmdError_inv (e : CmdError) : (raiseCmdError e s).Inv where
  memWf := hI.memWf
  weight := rfl
  ready h := (keyValid_congr rfl rfl rfl).2 (hI.ready h)
  judged := hI.judged
  solved := hI.solved
  running h := absurd rfl h
  held h := absurd h (by simp [hr])

/-- A normal completion of a command whose check passed (R113). -/
theorem completeOk_effectOf_inv {i : Instr} (hc : checkOf i s = none) : (completeOk (effectOf i s)).Inv where
  memWf := effectOf_wf i hI.memWf
  weight := rfl
  ready h := (keyValid_congr rfl rfl rfl).2 (keyValid_of_effectOf_stepReady hI hc h)
  judged := (effectOf_judged hI i).1
  solved := (effectOf_judged hI i).2
  running h := absurd rfl h
  held h := absurd h (by simp [(effectOf_host i s).rst, hr])

theorem exec_inv {i : Instr} {t : State} (h : exec i s = .next t) : t.Inv := by
  rcases (exec_next_iff ..).1 h with ⟨e, -, rfl⟩ | ⟨hc, rfl⟩
  · exact raiseCmdError_inv hI hr e
  · exact completeOk_effectOf_inv hI hr hc

end

theorem engineStep_inv {s t : State} (hI : s.Inv) (h : engineStep s = .next t) : t.Inv := by
  rcases (engineStep_next_iff s t).1 h with
    ⟨-, rfl⟩ | ⟨hr, -, rfl⟩ | ⟨-, -, rfl⟩ | ⟨hr, c, -, ⟨-, rfl⟩ | ⟨i, -, he⟩⟩
  · exact hI
  · exact hI.of_same_results_released hr rfl rfl rfl rfl rfl rfl (absurd rfl)
  · exact hI
  · exact raiseCmdError_inv hI hr _
  · exact exec_inv hI hr he

theorem handle_inv {e : Event} {s t : State} (hI : s.Inv) (h : handle e s = .next t) : t.Inv := by
  rcases (handle_next_iff e s t).1 h with
    ⟨-, he⟩ | ⟨hr, off, -, rfl⟩ | ⟨hr, off, v, -, rfl⟩ | ⟨-, rfl⟩ | ⟨-, rfl⟩
  · exact engineStep_inv hI he
  · exact busRead_inv hI hr off
  · exact busWrite_inv hI hr off v
  · exact enterReset_inv s true
  · split
    · exact enterReset_inv s false
    · exact hI

/-- Settles O4: the step handles one event in the state it is popped from, and every event keeps the invariant. -/
theorem everyStepKeepsTheInvariant : Obligations.EveryStepKeepsTheInvariant := by
  unfold Obligations.EveryStepKeepsTheInvariant
  intro s t hI h
  rw [step_eq_handle] at h
  exact handle_inv (popped_inv hI) h

end Sys2Proof.Machine
end

section
/-! SUPPORT. What the registers read and what a write to them does: one lemma for the reads R89 does not touch, one for the idle
engine, one for the read-only registers (R41 to R46, R61, R77, R78, R199). -/

namespace Sys2Proof.Machine

theorem busy_eq_false_iff (s : State) : s.busy = false ↔ s.seq = .idle := by simp [State.busy]

/-- A register R89 does not name reads its value in every engine state, and the read changes nothing else (R77). -/
theorem busRead_of_not_volatile {off : BitVec 12} (s : State) (h : (regAt off).volatile = false) :
    busRead off s = { s with rdata := (regAt off).value s } :=
  busRead_exact (by simp [h]) fun e => by simp [e, Reg.volatile] at h

/-- With the engine idle every register but WIN_DATA reads its value, and the read changes nothing else (R77). -/
theorem busRead_of_idle {off : BitVec 12} {s : State} (hs : s.seq = .idle) (hw : regAt off ≠ .winData) :
    busRead off s = { s with rdata := (regAt off).value s } :=
  busRead_exact (by simp [(busy_eq_false_iff s).2 hs]) hw

theorem regRead_of_not_volatile {off : BitVec 12} (s : State) (h : (regAt off).volatile = false) :
    regRead off s = (regAt off).value s := by
  rw [regRead, busRead_of_not_volatile s h]

@[simp] theorem regRead_status (s : State) : regRead 0x020#12 s = s.statusWord := regRead_of_not_volatile s rfl

@[simp] theorem regRead_irqStatus (s : State) : regRead 0x024#12 s = s.irqStatusWord := regRead_of_not_volatile s rfl

@[simp] theorem regRead_ctrl (s : State) : regRead 0x018#12 s = s.ctrlWord := regRead_of_not_volatile s rfl

@[simp] theorem busWrite_irqStatus (v : Word) (s : State) : busWrite 0x024#12 v s = acknowledge v s := rfl

theorem busWrite_ctrl_of_idle {s : State} (hs : s.seq = .idle) (v : Word) : busWrite 0x018#12 v s = storeCtrl v s := by
  have hb := (busy_eq_false_iff s).2 hs
  show (if s.busy then dropWrite s else storeCtrl v s) = _
  simp [hb]

/-- Each parameter of a build fits in its register (R8, R42). -/
theorem toNat_ofNat_params (p : Params) :
    (BitVec.ofNat 32 p.r).toNat = p.r ∧ (BitVec.ofNat 32 p.w).toNat = p.w ∧
    (BitVec.ofNat 32 p.t).toNat = p.t ∧ (BitVec.ofNat 32 p.nbIter).toNat = p.nbIter := by
  obtain ⟨-, hr, -, hw, -, ht, -, hn⟩ := (legalParams_iff ..).1 p.legal
  simp only [BitVec.toNat_ofNat]
  omega

/-- Settles O14: none of these registers is volatile, every parameter fits in a word, and a read-only register has no write. -/
theorem constantAndReadOnlyRegisters : Obligations.ConstantAndReadOnlyRegisters := by
  unfold Obligations.ConstantAndReadOnlyRegisters
  intro s v
  obtain ⟨hr, hw, ht, hn⟩ := toNat_ofNat_params s.params
  refine ⟨busRead_of_not_volatile s rfl, busRead_of_not_volatile s rfl,
    ⟨_, hr, busRead_of_not_volatile s rfl⟩,
    ⟨_, hw, busRead_of_not_volatile s rfl⟩,
    ⟨_, ht, busRead_of_not_volatile s rfl⟩,
    ⟨_, hn, busRead_of_not_volatile s rfl⟩, busRead_of_not_volatile s rfl, fun a ha => ?_⟩
  fin_cases ha <;> rfl

/-- Settles O15: a read of STATUS returns its word, whose fields are the flags. -/
theorem statusReadsItsFlags : Obligations.StatusReadsItsFlags := by
  unfold Obligations.StatusReadsItsFlags
  intro s
  obtain ⟨hbusy, fields⟩ := statusWord_fields s
  rw [regRead_status, hbusy]
  exact ⟨by simp [State.busy], fields⟩

/-- CTRL reads back the written fields with its reserved bits 0 (R43). -/
theorem ctrlWord_storeCtrl (v : Word) (s : State) : (storeCtrl v s).ctrlWord = v &&& 0x00000007#32 := by
  have mask : ∀ i : Fin 32, (0x00000007#32).getLsbD i = decide (i.val = 0 ∨ i.val = 1 ∨ i.val = 2) := by decide
  refine BitVec.eq_of_getLsbD_eq fun i hi => ?_
  rw [ctrlWord_getLsbD, BitVec.getLsbD_and, mask ⟨i, hi⟩]
  rcases i with _ | _ | _ | i <;> simp

/-- Settles O16: an idle CTRL write stores the two fields, and CTRL reads back what was written under its mask. -/
theorem ctrlReadsBackItsFields : Obligations.CtrlReadsBackItsFields := by
  unfold Obligations.CtrlReadsBackItsFields
  intro s v hs
  rw [regRead_ctrl, busWrite_ctrl_of_idle hs, ctrlWord_storeCtrl]
  exact ⟨rfl, rfl⟩

/-- Settles O22: the engine is idle, so every register but WIN_DATA reads its value. -/
theorem idleResultReadsAreExact : Obligations.IdleResultReadsAreExact := by
  unfold Obligations.IdleResultReadsAreExact
  intro s hs
  have atReg : ∀ {off : BitVec 12}, regAt off ≠ .winData → busRead off s = { s with rdata := (regAt off).value s } :=
    busRead_of_idle hs
  have sel : busRead 0x040#12 s = { s with rdata := s.winSel.setWidth 32 } := atReg nofun
  rw [BitVec.setWidth_eq_append (by decide)] at sel
  exact ⟨atReg nofun, atReg nofun, atReg nofun, atReg nofun, atReg nofun, atReg nofun, sel, atReg nofun,
    fun a ha => ⟨_, atReg fun h => ha (regAt_eq_winData h)⟩⟩

/-- IRQ_STATUS has bits 31:3 zero (R46). -/
theorem irqStatusWord_reserved (s : State) : s.irqStatusWord &&& 0xFFFFFFF8#32 = 0#32 := by
  unfold State.irqStatusWord
  generalize s.wbusy = a, s.errIrq = b, s.doneIrq = c
  revert a b c
  decide

/-- Of IRQ_STATUS, an acknowledge of `v` leaves the bits where `v` has a 0 (R199). -/
theorem irqStatusWord_acknowledge (v : Word) (s : State) :
    (acknowledge v s).irqStatusWord = s.irqStatusWord &&& ~~~v := by
  refine BitVec.eq_of_getLsbD_eq fun i hi => ?_
  rw [BitVec.getLsbD_and, irqStatusWord_getLsbD, irqStatusWord_getLsbD]
  rcases i with _ | _ | _ | i <;> simp [acknowledge]

/-- Settles O17: a write to IRQ_STATUS is the acknowledge, in every engine state. -/
theorem acknowledgeClearsWrittenOnes : Obligations.AcknowledgeClearsWrittenOnes := by
  unfold Obligations.AcknowledgeClearsWrittenOnes
  intro s v
  simp only [regRead_irqStatus, busWrite_irqStatus]
  exact ⟨irqStatusWord_reserved s, irqStatusWord_acknowledge v s, _, _, _, rfl⟩

end Sys2Proof.Machine
end

section
/-! SUPPORT. STEP_READY: the word of each command (R100, R101), the writes that store a key entry (R86), and the one lemma that
says which events set it, clear it and leave it (R62). -/

namespace Sys2Proof.Machine

/-! ### The word of a command -/

/-- A word is RSVD above OP (R100). -/
theorem rsvdField_append_opField (c : Word) : rsvdField c ++ opField c = c := by
  refine BitVec.eq_of_getLsbD_eq fun i hi => ?_
  rw [BitVec.getLsbD_append, rsvdField, opField, BitVec.getLsbD_extractLsb', BitVec.getLsbD_extractLsb']
  by_cases h : i < 8
  · simp [h]
  · simp [h, show i - 8 < 24 by omega, show 8 + (i - 8) = i by omega]

theorem decodeWord_encode (i : Instr) : decodeWord (encode i) = some i := by cases i <;> decide

/-- Each command has exactly one word (R101). -/
theorem decodeWord_eq_some_iff (c : Word) (i : Instr) : decodeWord c = some i ↔ c = encode i := by
  refine ⟨fun h => ?_, fun h => h ▸ decodeWord_encode i⟩
  unfold decodeWord at h
  split at h
  · cases h
  · rename_i hr
    have op : opField c = opcode i := by
      split at h <;> cases h <;> exact BitVec.eq_of_toNat_eq ‹_›
    rw [← rsvdField_append_opField c, not_not.1 hr, op, encode]

theorem encode_inj {i j : Instr} : encode i = encode j ↔ i = j := by
  rw [← decodeWord_eq_some_iff, decodeWord_encode, Option.some_inj]

/-! ### What a command does to STEP_READY -/

/-- A command that ends without error moves STEP_READY as its effect does; one that ends with an error leaves it, and is not CLEAR
(R62, R118). -/
theorem exec_stepReady {i : Instr} {s t : State} (h : exec i s = .next t) :
    (t.err = .none ∧
      t.stepReady = (decide (i = .decode ∨ i = .decInit) || (s.stepReady && decide (i ≠ .clear)))) ∨
    (t.err ≠ .none ∧ i ≠ .clear ∧ t.stepReady = s.stepReady) := by
  rcases (exec_next_iff ..).1 h with ⟨e, hc, rfl⟩ | ⟨-, rfl⟩
  · exact .inr ⟨checkOf_code_ne_none hc, fun hi => by simp [hi, checkOf] at hc, rfl⟩
  · exact .inl ⟨rfl, effectOf_stepReady i s⟩

/-! ### The writes that store a key entry -/

/-- A write to `off` stores an entry of H0 or H1: it reaches WIN_DATA while the engine is idle, the selected window is a key store
and WIN_IDX is inside it (R84, R86). -/
def StoresKeyEntry (off : BitVec 12) (s : State) : Prop :=
  off &&& 0xFFC#12 = 0x048#12 ∧ s.seq = .idle ∧ (s.winSel = 0x00#8 ∨ s.winSel = 0x01#8) ∧
    s.winIdx.toNat < s.params.w

theorem regAt_eq_winData_iff (off : BitVec 12) : regAt off = .winData ↔ off &&& 0xFFC#12 = 0x048#12 := by
  refine ⟨regAt_eq_winData, fun h => ?_⟩
  unfold regAt alignOffset
  rw [h]; rfl

/-- The key windows are the first two (R79). -/
theorem windowOf_any_isKey (sel : BitVec 8) :
    (windowOf sel).any Window.isKey = decide (sel = 0x00#8 ∨ sel = 0x01#8) := by
  revert sel; decide

/-- A key window is writable and has w entries (R79). -/
theorem Window.writable_and_length_of_isKey {w : Window} (h : w.isKey = true) (p : Params) :
    w.writable = true ∧ w.length p = p.w := by
  cases w
  case h0 => exact ⟨rfl, rfl⟩
  case h1 => exact ⟨rfl, rfl⟩
  all_goals cases h

/-- A WIN_DATA write clears STEP_READY exactly when it stores a key entry (R86). -/
theorem winWrite_stepReady (s : State) (x : Word) : (s.winWrite x).stepReady =
    (s.stepReady && !decide ((s.winSel = 0x00#8 ∨ s.winSel = 0x01#8) ∧ s.winIdx.toNat < s.params.w)) := by
  unfold State.winWrite
  rw [Bool.decide_and, ← windowOf_any_isKey]
  cases windowOf s.winSel with
  | none => simp
  | some w =>
    cases hk : w.isKey
    · simp only [hk, Option.any_some]
      split <;> simp
    · obtain ⟨hwr, hlen⟩ := Window.writable_and_length_of_isKey hk s.params
      by_cases hlt : s.winIdx.toNat < s.params.w <;> simp [hk, hwr, hlen, hlt]

theorem busWrite_stepReady_of_stores {off : BitVec 12} {s : State} (h : StoresKeyEntry off s) (v : Word) :
    (busWrite off v s).stepReady = false := by
  obtain ⟨hoff, hseq, hsel, hidx⟩ := h
  have hw := (regAt_eq_winData_iff off).2 hoff
  have hb := (busy_eq_false_iff s).2 hseq
  simp [busWrite, hw, hb, State.bumpIdx, winWrite_stepReady, hsel, hidx]

theorem busWrite_stepReady_of_not_stores {off : BitVec 12} {s : State} (h : ¬ StoresKeyEntry off s) (v : Word) :
    (busWrite off v s).stepReady = s.stepReady := by
  by_cases hw : regAt off = .winData
  · cases hb : s.busy
    · have hn : ¬ ((s.winSel = 0x00#8 ∨ s.winSel = 0x01#8) ∧ s.winIdx.toNat < s.params.w) := fun hk =>
        h ⟨regAt_eq_winData hw, (busy_eq_false_iff s).1 hb, hk⟩
      simp [busWrite, hw, hb, State.bumpIdx, winWrite_stepReady, hn]
    · simp [busWrite, hw, hb, State.bumpIdx]
  · unfold busWrite
    cases hreg : regAt off
    case winData => exact absurd hreg hw
    case ctrl => cases s.busy <;> rfl
    case cmd => cases s.busy <;> rfl
    all_goals rfl

/-! ### The events that move STEP_READY -/

/-- What R62 says sets STEP_READY, if it ends without error: the engine's turn in DEC_INIT or DECODE. -/
def SetsStepReady (e : Event) (s : State) : Prop :=
  e = .engine ∧ (s.seq = .busy (encode .decInit) ∨ s.seq = .busy (encode .decode))

/-- What R62 says clears STEP_READY: the engine's turn in CLEAR, reset, or a stored key entry. -/
def ClearsStepReady (e : Event) (s : State) : Prop :=
  (e = .engine ∧ s.seq = .busy (encode .clear)) ∨ e = .assertRst ∨ (e = .releaseRst ∧ s.rst = true) ∨
    ∃ off v, e = .write off v ∧ StoresKeyEntry off s

/-- R62, for every event. -/
theorem handle_stepReady {e : Event} {s t : State} (h : handle e s = .next t) :
    t.stepReady = s.stepReady ∨ (t.stepReady = true ∧ t.err = .none ∧ SetsStepReady e s) ∨
    (t.stepReady = false ∧ ClearsStepReady e s) := by
  rcases (handle_next_iff e s t).1 h with
    ⟨rfl, he⟩ | ⟨-, off, -, rfl⟩ | ⟨-, off, v, rfl, rfl⟩ | ⟨rfl, rfl⟩ | ⟨rfl, rfl⟩
  · rcases (engineStep_next_iff s t).1 he with
      ⟨-, rfl⟩ | ⟨-, -, rfl⟩ | ⟨-, -, rfl⟩ | ⟨-, c, hs, ⟨-, rfl⟩ | ⟨i, hd, hx⟩⟩
    · exact .inl rfl
    · exact .inl rfl
    · exact .inl rfl
    · exact .inl rfl
    · rw [(decodeWord_eq_some_iff c i).1 hd] at hs
      rcases exec_stepReady hx with ⟨hn, hr⟩ | ⟨-, -, hr⟩
      · cases i
        case decode => exact .inr (.inl ⟨hr, hn, rfl, .inr hs⟩)
        case decInit => exact .inr (.inl ⟨hr, hn, rfl, .inl hs⟩)
        case clear => exact .inr (.inr ⟨by simpa using hr, .inl ⟨rfl, hs⟩⟩)
        all_goals exact .inl (by simpa using hr)
      · exact .inl hr
  · obtain ⟨d, n, i, hb⟩ := busRead_eq off s
    exact .inl (by rw [hb])
  · by_cases hk : StoresKeyEntry off s
    · exact .inr (.inr ⟨busWrite_stepReady_of_stores hk v, .inr (.inr (.inr ⟨off, v, rfl, hk⟩))⟩)
    · exact .inl (busWrite_stepReady_of_not_stores hk v)
  · exact .inr (.inr ⟨rfl, .inr (.inl rfl)⟩)
  · cases hr : s.rst
    · exact .inl rfl
    · exact .inr (.inr ⟨rfl, .inr (.inr (.inl ⟨rfl, hr⟩))⟩)

/-! ### The same, of a step -/

theorem nextInput_of_pending {s : State} {e : Event} {es : List Event} (h : s.inputs = e :: es) : s.nextInput = e := by
  simp [State.nextInput, h]

/-- An event other than the engine's turn is the next one only when it is pending. -/
theorem pending_of_nextInput {s : State} {e : Event} (h : s.nextInput = e) (he : e ≠ .engine) :
    ∃ es, s.inputs = e :: es := by
  unfold State.nextInput at h
  cases hi : s.inputs with
  | nil => exact absurd (by simpa [hi] using h.symm) he
  | cons e' es => exact ⟨es, by simpa [hi] using h⟩

/-- At its turn in `BUSY(c)` the engine runs `c` (R112). -/
theorem step_eq_runCommand {s : State} {c : Word} (he : EngineTurn s) (hr : s.rst = false) (hs : s.seq = .busy c) :
    step s = runCommand c s.popped := by
  rw [step_eq_handle, (engineTurn_iff s).1 he]
  simp [handle, engineStep, hr, hs]

/-- R62, of the command that runs. -/
theorem runCommand_stepReady {c : Word} {s t : State} (h : runCommand c s = .next t) :
    ((c = encode .decInit ∨ c = encode .decode) → t.err = .none → t.stepReady = true) ∧
    (c = encode .clear → t.stepReady = false) ∧ (t.err ≠ .none → t.stepReady = s.stepReady) := by
  unfold runCommand at h
  split at h
  · rename_i i hd
    obtain rfl := (decodeWord_eq_some_iff c i).1 hd
    simp only [encode_inj]
    rcases exec_stepReady h with ⟨hn, hr⟩ | ⟨hn, hi, hr⟩
    · exact ⟨fun hi _ => by simp [hr, hi.symm], fun hi => by simp [hr, hi], absurd hn⟩
    · exact ⟨fun _ hn' => absurd hn' hn, fun hi' => absurd hi' hi, fun _ => hr⟩
  · rename_i hd
    have illegal : ∀ i, c ≠ encode i := fun i hi => by simp [hi, decodeWord_encode] at hd
    cases h
    simp [illegal]

/-- Settles O58: every clause is read off what the one event of the step does to STEP_READY. -/
theorem stepReadyMovesOnlyAsTheRuleSays : Obligations.StepReadyMovesOnlyAsTheRuleSays := by
  unfold Obligations.StepReadyMovesOnlyAsTheRuleSays
  refine ⟨fun p => rfl, fun s t h => ?_⟩
  have hh : handle s.nextInput s.popped = .next t := step_eq_handle s ▸ h
  refine ⟨fun hs ht => ?_, fun hs ht => ?_, fun c hr hs he => ?_, fun hes => ?_,
    fun off v es hr hes hoff hseq hsel hidx => ?_⟩
  · rcases handle_stepReady hh with h' | ⟨-, herr, he, hseq⟩ | ⟨h', -⟩
    · simp [hs, ht] at h'
    · exact ⟨(engineTurn_iff s).2 he, hseq, herr⟩
    · simp [ht] at h'
  · rcases handle_stepReady hh with h' | ⟨h', -⟩ | ⟨-, ⟨he, hseq⟩ | he | ⟨he, hr⟩ | ⟨off, v, he, hoff, hseq, hsel, hidx⟩⟩
    · simp [hs, ht] at h'
    · simp [ht] at h'
    · exact .inl ⟨(engineTurn_iff s).2 he, hseq⟩
    · exact .inr (.inl (pending_of_nextInput he nofun))
    · exact .inr (.inr (.inl ⟨hr, pending_of_nextInput he nofun⟩))
    · obtain ⟨es, hes⟩ := pending_of_nextInput he nofun
      exact .inr (.inr (.inr ⟨off, v, es, hes, hoff, hseq, hsel, hidx⟩))
  · rw [step_eq_runCommand he hr hs] at h
    exact runCommand_stepReady (s := s.popped) h
  · obtain ⟨es, hes⟩ := hes
    rw [nextInput_of_pending hes] at hh
    cases hh; rfl
  · have hk : StoresKeyEntry off s.popped := ⟨hoff, hseq, hsel, hidx⟩
    have hw : handle (.write off v) s.popped = .next (busWrite off v s.popped) := by simp [handle, hr]
    rw [nextInput_of_pending hes, hw] at hh
    cases hh
    exact busWrite_stepReady_of_stores hk v

end Sys2Proof.Machine
end

section
/-! SUPPORT. Accesses to the register space: when a step refuses one (R223), which register an offset names (R73, R75, R76), which
writes are dropped or ignored (R78, R95), and what reads return while the engine is not idle (R89). -/

namespace Sys2Proof.Machine

/-! ### When a step is refused -/

/-- A bus access. -/
def Event.IsAccess (e : Event) : Prop := (∃ off, e = .read off) ∨ ∃ off v, e = .write off v

/-- R223, for every event. -/
theorem handle_refused_iff (e : Event) (s : State) (x : Refusal) :
    handle e s = .refused x ↔ x = .accessDuringReset ∧ s.rst = true ∧ e.IsAccess := by
  cases e with
  | engine =>
    obtain ⟨t, h⟩ := engineStep_isNext s
    simp [handle, h, Event.IsAccess]
  | read off => cases hr : s.rst <;> simp [handle, hr, Event.IsAccess, eq_comm]
  | write off v => cases hr : s.rst <;> simp [handle, hr, Event.IsAccess, eq_comm]
  | assertRst => simp [handle, Event.IsAccess]
  | releaseRst => simp [handle, Event.IsAccess]

/-- A bus access is the next event exactly when it is the first one pending. -/
theorem nextInput_isAccess_iff (s : State) : s.nextInput.IsAccess ↔
    (∃ off, s.inputs.head? = some (.read off)) ∨ ∃ off v, s.inputs.head? = some (.write off v) := by
  unfold State.nextInput
  cases s.inputs <;> simp [Event.IsAccess]

/-- Settles O6: there is no fault to answer, and the step refuses what the handling of its next event refuses. -/
theorem onlyAccessesDuringResetAreRefused : Obligations.OnlyAccessesDuringResetAreRefused := by
  unfold Obligations.OnlyAccessesDuringResetAreRefused
  intro s x
  refine ⟨nofun, ?_⟩
  rw [step_eq_handle, handle_refused_iff, nextInput_isAccess_iff]
  rfl

/-! ### The register an offset names -/

/-- A named register answers at its own offset alone (R73, R76). -/
theorem align_of_regAt_offset {a o : BitVec 12} (h : (regAt a).offset = some o) : a &&& 0xFFC#12 = o := by
  unfold regAt alignOffset at h
  split at h <;> cases h <;> exact BitVec.eq_of_toNat_eq ‹_›

/-- Offsets above WIN_DATA are reserved (R75). -/
theorem regAt_of_ge {a : BitVec 12} (h : 0x04C ≤ (a &&& 0xFFC#12).toNat) : regAt a = .reserved := by
  have below : ∀ o : BitVec 12, (regAt a).offset = some o → 0x04C ≤ o.toNat := fun o ho =>
    align_of_regAt_offset ho ▸ h
  cases hr : regAt a
  case reserved => rfl
  all_goals exact absurd (below _ (by rw [hr]; rfl)) (by decide)

/-- A reserved offset reads 0 in every engine state (R75). -/
theorem busRead_reserved {a : BitVec 12} (h : 0x04C ≤ (a &&& 0xFFC#12).toNat) (s : State) :
    busRead a s = { s with rdata := 0#32 } := by
  have hreg := regAt_of_ge h
  rw [busRead_of_not_volatile s (by rw [hreg]; rfl), hreg]; rfl

/-- A write to a reserved offset is ignored (R75). -/
theorem busWrite_reserved {a : BitVec 12} (h : 0x04C ≤ (a &&& 0xFFC#12).toNat) (v : Word) (s : State) :
    busWrite a v s = s := by
  rw [busWrite, regAt_of_ge h]

/-- Settles O13: an access depends on the register the offset names, which its two low bits do not move. -/
theorem registerSpaceAddressing : Obligations.RegisterSpaceAddressing := by
  unfold Obligations.RegisterSpaceAddressing
  intro a b s v
  refine ⟨fun h => ?_, fun h => ⟨busRead_reserved h s, busWrite_reserved h v s⟩⟩
  have hreg : regAt a = regAt b := by rw [regAt, regAt, alignOffset, alignOffset, h]
  simp only [busRead, busWrite, hreg, and_self]

/-! ### Writes -/

theorem busy_eq_true_iff (s : State) : s.busy = true ↔ s.seq ≠ .idle := by simp [State.busy]

theorem busWrite_ctrl (v : Word) (s : State) :
    busWrite 0x018#12 v s = if s.busy then dropWrite s else storeCtrl v s := rfl

theorem busWrite_cmd (v : Word) (s : State) :
    busWrite 0x01C#12 v s = if s.busy then dropWrite s else accept v s := rfl

theorem busWrite_winData (v : Word) (s : State) :
    busWrite 0x048#12 v s = if s.busy then (dropWrite s).bumpIdx else (s.winWrite v).bumpIdx := rfl

/-- A write outside the six writable registers is ignored (R75, R78, R95). -/
theorem busWrite_of_not_writable {a : BitVec 12}
    (h : a &&& 0xFFC#12 ∉ [0x018#12, 0x01C#12, 0x024#12, 0x040#12, 0x044#12, 0x048#12]) (v : Word) (s : State) :
    busWrite a v s = s := by
  have not_at : ∀ o ∈ [0x018#12, 0x01C#12, 0x024#12, 0x040#12, 0x044#12, 0x048#12], (regAt a).offset ≠ some o :=
    fun o ho hr => h (align_of_regAt_offset hr ▸ ho)
  unfold busWrite
  revert not_at
  cases regAt a <;> simp [Reg.offset]

/-- WIN_SEL keeps the low eight bits of what is written and reads its upper bits 0 (R47). -/
theorem regRead_winSel_busWrite (v : Word) (s : State) :
    regRead 0x040#12 (busWrite 0x040#12 v s) = v &&& 0x000000FF#32 := by
  have mask : ∀ i : Fin 32, (0x000000FF#32).getLsbD i = decide (i.val < 8) := by decide
  have hread : regRead 0x040#12 (busWrite 0x040#12 v s) = (v.extractLsb' 0 8).setWidth 32 :=
    regRead_of_not_volatile _ rfl
  refine BitVec.eq_of_getLsbD_eq fun i hi => ?_
  rw [hread, BitVec.getLsbD_setWidth, BitVec.getLsbD_extractLsb', BitVec.getLsbD_and, mask ⟨i, hi⟩]
  simp [hi, Bool.and_comm]

/-- Settles O20: the three busy drops, the three writes that always take effect, and the rest ignored. -/
theorem busyWritesAreDroppedAndRecorded : Obligations.BusyWritesAreDroppedAndRecorded := by
  unfold Obligations.BusyWritesAreDroppedAndRecorded
  intro s v
  refine ⟨fun hs => ?_, ⟨regRead_winSel_busWrite v s, _, rfl⟩, rfl, ?_,
    fun a ha => busWrite_of_not_writable ha v s⟩
  · rw [busWrite_ctrl, busWrite_cmd, busWrite_winData, (busy_eq_true_iff s).2 hs]
    exact ⟨rfl, rfl, rfl⟩
  · simp only [regRead_irqStatus, busWrite_irqStatus]
    exact ⟨irqStatusWord_acknowledge v s, _, _, _, rfl⟩

/-! ### Reads while the engine is not idle -/

/-- R89: a free value is drawn, and counted. -/
theorem busRead_free {off : BitVec 12} {s : State} (hs : s.seq ≠ .idle) (hv : (regAt off).volatile = true)
    (hw : regAt off ≠ .winData) :
    busRead off s = { s with rdata := Config.freeWord s.fresh, fresh := s.fresh + 1 } := by
  simp [busRead, fetchData, (busy_eq_true_iff s).2 hs, hv, hw]

/-- A WIN_DATA read fetches the data and increments WIN_IDX (R83). -/
theorem busRead_winData (s : State) : busRead 0x048#12 s = (fetchData .winData s).bumpIdx := rfl

theorem fetchData_winData_of_busy {s : State} (hs : s.seq ≠ .idle) :
    fetchData .winData s = { s with rdata := Config.freeWord s.fresh, fresh := s.fresh + 1 } := by
  simp [fetchData, (busy_eq_true_iff s).2 hs, Reg.volatile]

/-- Settles O21: R89's registers read a free value, WIN_DATA then moves WIN_IDX, and every other register reads its value. -/
theorem busyResultReadsAreFree : Obligations.BusyResultReadsAreFree := by
  unfold Obligations.BusyResultReadsAreFree
  intro s hs
  obtain ⟨hr, hw, ht, hn⟩ := toNat_ofNat_params s.params
  have exact_at : ∀ {off : BitVec 12}, (regAt off).volatile = false →
      busRead off s = { s with rdata := (regAt off).value s } := busRead_of_not_volatile s
  have status : busRead 0x020#12 s = { s with rdata := s.statusWord } := exact_at rfl
  rw [State.statusWord, (busy_eq_true_iff s).2 hs] at status
  have sel : busRead 0x040#12 s = { s with rdata := s.winSel.setWidth 32 } := exact_at rfl
  rw [BitVec.setWidth_eq_append (by decide)] at sel
  refine ⟨fun a ha => ?_, ?_, exact_at rfl, exact_at rfl, ⟨_, hr, exact_at rfl⟩, ⟨_, hw, exact_at rfl⟩,
    ⟨_, ht, exact_at rfl⟩, ⟨_, hn, exact_at rfl⟩, exact_at rfl, exact_at rfl, status, exact_at rfl, sel, exact_at rfl,
    fun a ha => busRead_reserved ha s⟩
  · fin_cases ha <;> exact busRead_free hs rfl nofun
  · rw [busRead_winData, fetchData_winData_of_busy hs]; rfl

end Sys2Proof.Machine
end

section
/-! SUPPORT. WIN_DATA accesses while the engine is idle: what a window reads (R79 to R83) and what a write through one stores or
drops (R80, R82, R84 to R86). -/

namespace Sys2Proof.Machine

/-! ### What a window reads -/

/-- A WIN_DATA read while the engine is idle (R83). -/
theorem busRead_winData_of_idle {s : State} (hs : s.seq = .idle) :
    busRead 0x048#12 s = { s with rdata := s.winRead, winIdx := s.winIdx + 1#32 } := by
  rw [busRead_winData, fetchData, (busy_eq_false_iff s).2 hs]; rfl

theorem regRead_winData_of_idle {s : State} (hs : s.seq = .idle) : regRead 0x048#12 s = s.winRead := by
  rw [regRead, busRead_winData_of_idle hs]

/-- An idle WIN_DATA read returns the window's entry, and 0 past its length (R83). -/
theorem winRead_of_window {s : State} {w : Window} (hw : windowOf s.winSel = some w) : s.winRead =
    if s.winIdx.toNat < w.length s.params then w.entry s.params s.mem s.winIdx.toNat else 0#32 := by
  simp [State.winRead, hw]

/-- The words of a vector are those that hold one of its r bits (R10). -/
theorem nw_le_iff (p : Params) (i : Nat) : p.nw ≤ i ↔ p.r ≤ 32 * i := by
  unfold Params.nw; omega

/-- The vector behind a vector window, if the window is one (R79). -/
def Window.vector (p : Params) (m : Memory) : Window → Option (List Bool)
  | .ein0 => some (half0 p.r m.ein)
  | .ein1 => some (half1 p.r m.ein)
  | .syn => some m.syn
  | .res => some m.res
  | .eout0 => some (half0 p.r m.eout)
  | .eout1 => some (half1 p.r m.eout)
  | .black0 => some (half0 p.r m.black)
  | .black1 => some (half1 p.r m.black)
  | .gray0 => some (half0 p.r m.gray)
  | .gray1 => some (half1 p.r m.gray)
  | .h0 | .h1 | .upc0 | .upc1 => none

/-- A vector window reads the packed words of its vector, NW of them (R79, R80). -/
theorem Window.entry_of_vector {p : Params} {m : Memory} {w : Window} {v : List Bool} (h : w.vector p m = some v)
    (i : Nat) : w.entry p m i = packWord v i ∧ w.length p = p.nw := by
  cases w <;> cases h <;> exact ⟨rfl, rfl⟩

/-- The vector of a window has r bits (R14, R79). -/
theorem Window.length_of_vector {p : Params} {m : Memory} (hm : m.wf p = true) {w : Window} {v : List Bool}
    (h : w.vector p m = some v) : v.length = p.r := by
  obtain ⟨-, -, he, hs, hr, ho, hb, hg, -, -⟩ := (Memory.wf_iff p m).1 hm
  cases w <;> cases h
  case syn => exact hs
  case res => exact hr
  case ein0 => exact length_half0 he
  case ein1 => exact length_half1 he
  case eout0 => exact length_half0 ho
  case eout1 => exact length_half1 ho
  case black0 => exact length_half0 hb
  case black1 => exact length_half1 hb
  case gray0 => exact length_half0 hg
  case gray1 => exact length_half1 hg

/-- The bits of a WIN_DATA read through a vector window: the word of WIN_IDX, 0 from bit r on (R80, R83). -/
theorem winRead_getLsbD {s : State} (hm : s.MemOk) {w : Window} {v : List Bool} (hw : windowOf s.winSel = some w)
    (hv : w.vector s.params s.mem = some v) {b : Nat} (hb : b < 32) : s.winRead.getLsbD b =
      (decide (32 * s.winIdx.toNat + b < s.params.r) && bit v (32 * s.winIdx.toNat + b)) := by
  obtain ⟨hentry, hlen⟩ := Window.entry_of_vector hv s.winIdx.toNat
  have hv_len := Window.length_of_vector hm hv
  have hnw := nw_le_iff s.params s.winIdx.toNat
  rw [winRead_of_window hw, hentry, hlen]
  split
  · rw [getLsbD_packWord]
    by_cases hin : 32 * s.winIdx.toNat + b < s.params.r
    · simp [hb, hin]
    · rw [bit_of_length_le (by omega)]; simp
  · have past : ¬ 32 * s.winIdx.toNat + b < s.params.r := by omega
    simp [past]

/-- Settles O23: each selector's window is a vector window over the listed vector. -/
theorem vectorWindowsReadPackedWords : Obligations.VectorWindowsReadPackedWords := by
  unfold Obligations.VectorWindowsReadPackedWords
  intro s sel v hI hs hsel hmem
  have window : ∃ w, windowOf sel = some w ∧ w.vector s.params s.mem = some v := by
    fin_cases hmem <;> exact ⟨_, rfl, rfl⟩
  obtain ⟨w, hw, hv⟩ := window
  rw [regRead_winData_of_idle hs, busRead_winData_of_idle hs]
  exact ⟨fun b hb => winRead_getLsbD hI.memWf (hsel ▸ hw) hv hb, _, rfl⟩

/-- A counter fits in a word, being at most w (R8, R81, R151). -/
theorem toNat_ofNat_upc {s : State} (hm : s.MemOk) (j : Nat) :
    (BitVec.ofNat 32 (s.mem.upc.getD j 0)).toNat = s.mem.upc.getD j 0 := by
  obtain ⟨-, -, -, -, -, -, -, -, -, hle⟩ := (Memory.wf_iff _ _).1 hm
  obtain ⟨-, hr, -, hwr, -⟩ := (legalParams_iff ..).1 s.params.legal
  have bound : s.mem.upc.getD j 0 ≤ s.params.w := by
    rw [List.getD_eq_getElem?_getD]
    cases h : s.mem.upc[j]? with
    | none => exact Nat.zero_le _
    | some u => exact hle u (List.mem_of_getElem? h)
  rw [BitVec.toNat_ofNat, Nat.mod_eq_of_lt (by omega)]

/-- A counter is read zero-extended, and past the end 0 (R81, R83). -/
theorem toNat_counter_or_zero {s : State} (hm : s.MemOk) (i j : Nat) :
    (if i < s.params.r then BitVec.ofNat 32 (s.mem.upc.getD j 0) else 0#32).toNat =
      if i < s.params.r then s.mem.upc.getD j 0 else 0 := by
  split
  · exact toNat_ofNat_upc hm j
  · rfl

/-- Past the end of a key store there is no entry, so its default is what R83 asks for (R82). -/
theorem getD_or_zero {l : List Word} {n : Nat} (h : l.length = n) (i : Nat) :
    (if i < n then l.getD i 0#32 else 0#32) = l.getD i 0#32 := by
  split
  · rfl
  · rw [List.getD_eq_default]; omega

/-- Windows 0x0E to 0xFF are reserved (R79). -/
theorem windowOf_reserved {sel : BitVec 8} (h : 0x0E ≤ sel.toNat) : windowOf sel = none := by
  revert sel; decide

/-- Settles O24: `winRead` through each window, with key stores of length w and counters that fit in a word. -/
theorem keyCounterAndReservedWindowsRead : Obligations.KeyCounterAndReservedWindowsRead := by
  unfold Obligations.KeyCounterAndReservedWindowsRead
  intro s hI hs
  obtain ⟨h0, h1, -⟩ := (Memory.wf_iff _ _).1 hI.memWf
  rw [regRead_winData_of_idle hs, busRead_winData_of_idle hs]
  refine ⟨fun hsel => ?_, fun hsel => ?_, fun hsel => ?_, fun hsel => ?_, fun hsel => ?_, _, rfl⟩
  · rw [winRead_of_window (w := .h0) (by rw [hsel]; rfl)]
    exact getD_or_zero h0 _
  · rw [winRead_of_window (w := .h1) (by rw [hsel]; rfl)]
    exact getD_or_zero h1 _
  · rw [winRead_of_window (w := .upc0) (by rw [hsel]; rfl)]
    exact toNat_counter_or_zero hI.memWf _ _
  · rw [winRead_of_window (w := .upc1) (by rw [hsel]; rfl)]
    exact toNat_counter_or_zero hI.memWf _ _
  · rw [State.winRead, windowOf_reserved hsel]

/-! ### What a write through a window stores -/

theorem busWrite_winData_of_idle {s : State} (hs : s.seq = .idle) (x : Word) :
    busWrite 0x048#12 x s = (s.winWrite x).bumpIdx := by
  rw [busWrite_winData, (busy_eq_false_iff s).2 hs]; rfl

/-- A write below the length of a writable window stores its entry (R84). -/
theorem winWrite_of_stored {s : State} {w : Window} (hw : windowOf s.winSel = some w) (hwr : w.writable = true)
    (hlt : s.winIdx.toNat < w.length s.params) (x : Word) : s.winWrite x =
      { s with mem := w.store s.params s.mem s.winIdx.toNat x, stepReady := s.stepReady && !w.isKey } := by
  simp [State.winWrite, hw, hwr, hlt]

/-- A write that no writable window has an entry for is dropped (R84, R85). -/
theorem winWrite_of_dropped {s : State}
    (h : ∀ w, windowOf s.winSel = some w → w.writable = true → w.length s.params ≤ s.winIdx.toNat) (x : Word) :
    s.winWrite x = s := by
  rcases winWrite_cases s x with hx | ⟨w, hw, hwr, hlt, -⟩
  · exact hx
  · exact absurd hlt (by simpa using h w hw hwr)

/-- The writable windows are the two key stores of w entries and the three vectors of NW words behind them (R79). -/
theorem windowOf_writable {sel : BitVec 8} {w : Window} (hw : windowOf sel = some w) (hwr : w.writable = true)
    (p : Params) : (sel.toNat < 2 ∧ w.length p = p.w) ∨ (2 ≤ sel.toNat ∧ sel.toNat < 5 ∧ w.length p = p.nw) := by
  have number : (sel.toNat < 2 ∧ w.isKey = true) ∨ ((2 ≤ sel.toNat ∧ sel.toNat < 5) ∧ w.isKey = false) := by
    revert sel w; decide
  rcases number with ⟨hsel, hkey⟩ | ⟨⟨hlo, hhi⟩, hkey⟩
  · exact .inl ⟨hsel, (Window.writable_and_length_of_isKey hkey p).2⟩
  · have hlen : w.length p = p.nw := by
      revert hwr hkey
      cases w <;> simp [Window.writable, Window.isKey, Window.length]
    exact .inr ⟨hlo, hhi, hlen⟩

/-- The bits after a word is stored: those of that word are the bits written (R80). -/
theorem bit_unpackWord (v : List Bool) (i : Nat) (x : Word) {n : Nat} (hn : n < v.length) :
    bit (unpackWord v i x) n = if n / 32 = i then x.getLsbD (n % 32) else bit v n := bit_bits_of_lt _ hn

/-- A word past the end of a vector holds only padding, so storing it changes nothing (R80). -/
theorem unpackWord_of_length_le {v : List Bool} {i : Nat} (h : v.length ≤ 32 * i) (x : Word) :
    unpackWord v i x = v := by
  refine ext_bit (length_unpackWord ..) fun n hn => ?_
  rw [length_unpackWord] at hn
  rw [bit_unpackWord v i x hn, if_neg (by omega)]

/-- A word stored past the end of a vector window changes nothing (R80, R84). -/
theorem Window.store_vector_past {p : Params} {m : Memory} (hm : m.wf p = true) {w : Window} {v : List Bool}
    (hv : w.vector p m = some v) {i : Nat} (hi : p.nw ≤ i) (x : Word) : w.store p m i x = m := by
  have past : unpackWord v i x = v :=
    unpackWord_of_length_le ((Window.length_of_vector hm hv).trans_le ((nw_le_iff p i).1 hi)) x
  cases w <;> cases hv
  case ein0 => simp [Window.store, past]
  case ein1 => simp [Window.store, past]
  case syn => simp [Window.store, past]
  all_goals rfl

/-- A WIN_DATA write through a writable vector window stores one word of it; past the end that word is all padding
(R80, R84). -/
theorem busWrite_winData_of_vector {s : State} (hm : s.MemOk) (hs : s.seq = .idle) {w : Window} {v : List Bool}
    (hw : windowOf s.winSel = some w) (hwr : w.writable = true) (hv : w.vector s.params s.mem = some v) (x : Word) :
    busWrite 0x048#12 x s =
      { s with mem := w.store s.params s.mem s.winIdx.toNat x, winIdx := s.winIdx + 1#32 } := by
  rw [busWrite_winData_of_idle hs]
  by_cases hlt : s.winIdx.toNat < w.length s.params
  · have hkey : w.isKey = false := by
      revert hv
      cases w <;> simp [Window.vector, Window.isKey]
    rw [winWrite_of_stored hw hwr hlt, hkey, Bool.not_false, Bool.and_true]; rfl
  · have hlen := (Window.entry_of_vector hv s.winIdx.toNat).2
    have dropped : s.winWrite x = s := by
      refine winWrite_of_dropped (fun w' hw' _ => ?_) x
      obtain rfl := Option.some.inj (hw.symm.trans hw')
      omega
    rw [dropped, Window.store_vector_past hm hv (by omega)]; rfl

/-- The bits of a vector of two blocks, of which the first has length r (R16). -/
theorem bit_append_of_lt {r n : Nat} {u v : List Bool} (hu : u.length = r) (hn : n < r) : bit (u ++ v) n = bit u n :=
  List.getD_append _ _ _ _ (hu ▸ hn)

theorem bit_append_of_ge {r n : Nat} {u v : List Bool} (hu : u.length = r) (hn : r ≤ n) :
    bit (u ++ v) n = bit v (n - r) :=
  hu ▸ List.getD_append_right _ _ _ _ (hu ▸ hn)

/-- Storing through EIN0 writes one word of EIN_0 and leaves EIN_1 (R22, R80). -/
theorem bit_store_ein0 {p : Params} {m : Memory} (hm : m.wf p = true) (i : Nat) (x : Word) :
    (∀ n, n < p.r → bit (Window.ein0.store p m i x).ein n = if n / 32 = i then x.getLsbD (n % 32) else bit m.ein n) ∧
    ∀ n, p.r ≤ n → bit (Window.ein0.store p m i x).ein n = bit m.ein n := by
  have hlen : (half0 p.r m.ein).length = p.r := Window.length_of_vector (w := .ein0) hm rfl
  have hstored := (length_unpackWord (half0 p.r m.ein) i x).trans hlen
  refine ⟨fun n hn => ?_, fun n hn => ?_⟩
  · rw [Window.store, bit_append_of_lt hstored hn, bit_unpackWord _ i x (by omega), bit_half0]
    simp [hn]
  · rw [Window.store, bit_append_of_ge hstored hn, bit_half1, Nat.add_sub_cancel' hn]

/-- Storing through EIN1 writes one word of EIN_1 and leaves EIN_0 (R22, R80). -/
theorem bit_store_ein1 {p : Params} {m : Memory} (hm : m.wf p = true) (i : Nat) (x : Word) :
    (∀ n, n < p.r → bit (Window.ein1.store p m i x).ein (p.r + n) =
      if n / 32 = i then x.getLsbD (n % 32) else bit m.ein (p.r + n)) ∧
    ∀ n, n < p.r → bit (Window.ein1.store p m i x).ein n = bit m.ein n := by
  have hlen0 : (half0 p.r m.ein).length = p.r := Window.length_of_vector (w := .ein0) hm rfl
  have hlen1 : (half1 p.r m.ein).length = p.r := Window.length_of_vector (w := .ein1) hm rfl
  refine ⟨fun n hn => ?_, fun n hn => ?_⟩
  · rw [Window.store, bit_append_of_ge hlen0 (Nat.le_add_right ..), Nat.add_sub_cancel_left,
      bit_unpackWord _ i x (by omega), bit_half1]
  · rw [Window.store, bit_append_of_lt hlen0 hn, bit_half0]
    simp [hn]

/-- Settles O25: the write is one store into the window's vector, which keeps the lengths and moves the bits of one word. -/
theorem vectorWindowWritesStoreOneWord : Obligations.VectorWindowWritesStoreOneWord := by
  unfold Obligations.VectorWindowWritesStoreOneWord
  rintro s t x hI hs rfl
  have hm : s.MemOk := hI.memWf
  have wf_after (w : Window) := (Memory.wf_iff _ _).1 (Window.store_wf hm w s.winIdx.toNat x)
  refine ⟨fun hsel => ?_, fun hsel => ?_, fun hsel => ?_⟩
  · rw [busWrite_winData_of_vector hm hs (w := .syn) (by rw [hsel]; rfl) rfl rfl]
    obtain ⟨-, -, -, hlen, -⟩ := wf_after .syn
    have hbefore : s.mem.syn.length = s.params.r := Window.length_of_vector (w := .syn) hm rfl
    exact ⟨rfl, hlen, fun n hn => bit_unpackWord _ _ x (by omega)⟩
  · rw [busWrite_winData_of_vector hm hs (w := .ein0) (by rw [hsel]; rfl) rfl rfl]
    obtain ⟨-, -, hlen, -⟩ := wf_after .ein0
    exact ⟨rfl, hlen, bit_store_ein0 hm s.winIdx.toNat x⟩
  · rw [busWrite_winData_of_vector hm hs (w := .ein1) (by rw [hsel]; rfl) rfl rfl]
    obtain ⟨-, -, hlen, -⟩ := wf_after .ein1
    exact ⟨rfl, hlen, bit_store_ein1 hm s.winIdx.toNat x⟩

/-- A WIN_DATA write of a key entry stores it and ends the step sequence (R86). -/
theorem busWrite_winData_of_key {s : State} (hs : s.seq = .idle) {w : Window} (hw : windowOf s.winSel = some w)
    (hkey : w.isKey = true) (hlt : s.winIdx.toNat < s.params.w) (x : Word) : busWrite 0x048#12 x s =
      { s with mem := w.store s.params s.mem s.winIdx.toNat x, stepReady := false, winIdx := s.winIdx + 1#32 } := by
  obtain ⟨hwr, hlen⟩ := Window.writable_and_length_of_isKey hkey s.params
  rw [busWrite_winData_of_idle hs, winWrite_of_stored hw hwr (hlen ▸ hlt), hkey, Bool.not_true, Bool.and_false]
  rfl

/-- Settles O26: a key window below w stores, and a write that reaches no entry keeps the data storage and STEP_READY. -/
theorem keyWritesEndAStepSequence : Obligations.KeyWritesEndAStepSequence := by
  unfold Obligations.KeyWritesEndAStepSequence
  intro s x
  refine ⟨fun hs hsel hlt => ?_, fun hs hsel hlt => ?_, fun hsel hdrop => ?_⟩
  · exact busWrite_winData_of_key (w := .h0) hs (by rw [hsel]; rfl) rfl hlt x
  · exact busWrite_winData_of_key (w := .h1) hs (by rw [hsel]; rfl) rfl hlt x
  · cases hb : s.busy
    · have hs := (busy_eq_false_iff s).1 hb
      have past : s.params.w ≤ s.winIdx.toNat := hdrop.resolve_left (absurd hs)
      have key : s.winSel.toNat < 2 := by rcases hsel with h | h <;> simp [h]
      have dropped : s.winWrite x = s := by
        refine winWrite_of_dropped (fun w hw hwr => ?_) x
        rcases windowOf_writable hw hwr s.params with ⟨-, hlen⟩ | ⟨hlo, -, -⟩ <;> omega
      rw [busWrite_winData_of_idle hs, dropped]
      exact ⟨rfl, rfl⟩
    · rw [busWrite_winData, hb]
      exact ⟨rfl, rfl⟩

/-- Settles O27: in each of the three cases no writable window has an entry at WIN_IDX. -/
theorem droppedWindowWritesOnlyAdvance : Obligations.DroppedWindowWritesOnlyAdvance := by
  unfold Obligations.DroppedWindowWritesOnlyAdvance
  intro s x hs hcase
  have dropped : s.winWrite x = s := by
    refine winWrite_of_dropped (fun w hw hwr => ?_) x
    have hnw := nw_le_iff s.params s.winIdx.toNat
    rcases windowOf_writable hw hwr s.params with ⟨hsel, hlen⟩ | ⟨hlo, hhi, hlen⟩ <;> omega
  rw [busWrite_winData_of_idle hs, dropped]; rfl

end Sys2Proof.Machine
end

section
/-! SUPPORT. The opcode map of command words (R100, R101, R103): its rows are the commands' own words under a full mask, and a word
with a bit of RSVD set is in none of them. -/

namespace Sys2Proof

/-- The round trip of each command, as one fact over all of them. -/
theorem roundTrip : ∀ i : Instr, Laws.RoundTrip.Statement i
  | .nop => Laws.RoundTrip.nop
  | .cprod0 => Laws.RoundTrip.cprod0
  | .cprod1 => Laws.RoundTrip.cprod1
  | .syndrome => Laws.RoundTrip.syndrome
  | .decode => Laws.RoundTrip.decode
  | .decInit => Laws.RoundTrip.decInit
  | .decStep => Laws.RoundTrip.decStep
  | .clear => Laws.RoundTrip.clear

/-- The opcode map has one row per command: its word, under a mask of every bit (R101). -/
theorem mem_opcodeTable_iff (row : Word × Word × Instr) :
    row ∈ opcodeTable ↔ row = (encode row.2.2, BitVec.allOnes 32, row.2.2) := by
  constructor
  · revert row; decide
  · intro h
    obtain ⟨-, -, hmem⟩ := roundTrip row.2.2
    rw [h]; exact hmem

/-- A row of the opcode map selects its command's word and no other (R101). -/
theorem exists_opcodeTable_row_iff (c : Word) (i : Instr) :
    (∃ row ∈ opcodeTable, row.2.2 = i ∧ c &&& row.2.1 = row.1) ↔ c = encode i := by
  constructor
  · rintro ⟨row, hmem, rfl, hmatch⟩
    rw [(mem_opcodeTable_iff row).1 hmem] at hmatch
    exact BitVec.and_allOnes.symm.trans hmatch
  · rintro rfl
    exact ⟨(encode i, BitVec.allOnes 32, i), (mem_opcodeTable_iff _).2 rfl, rfl, BitVec.and_allOnes⟩

/-- No command has an operand that could be ill formed (R102). -/
theorem Instr.wf_eq_true (i : Instr) : i.wf = true := by cases i <;> rfl

/-- A word with a bit of RSVD set selects no command, whatever its OP (R103). -/
theorem decodeWord_of_rsvd {c : Word} (h : rsvdField c ≠ 0#24) : decodeWord c = none := by
  rw [decodeWord, if_pos h]

end Sys2Proof

namespace Sys2Proof.Machine

/-- Settles O11: each command has exactly one word, and the opcode map's row of the command selects exactly that word. -/
theorem decodeAndEncodeAgree : Obligations.DecodeAndEncodeAgree := by
  unfold Obligations.DecodeAndEncodeAgree
  refine ⟨fun i => ⟨i.wf_eq_true, decodeWord_encode i⟩, fun c i => (decodeWord_eq_some_iff c i).1, fun c i => ?_⟩
  rw [decodeWord_eq_some_iff, exists_opcodeTable_row_iff]

/-- Settles O10: the words 0 to 7 are the commands' encodings, and the other three have a bit of RSVD set. -/
theorem opcodeMapWordsDecode : Obligations.OpcodeMapWordsDecode := by
  unfold Obligations.OpcodeMapWordsDecode
  exact ⟨decodeWord_encode .nop, decodeWord_encode .cprod0, decodeWord_encode .cprod1, decodeWord_encode .syndrome,
    decodeWord_encode .decode, decodeWord_encode .decInit, decodeWord_encode .decStep, decodeWord_encode .clear,
    decodeWord_of_rsvd (by decide), decodeWord_of_rsvd (by decide), decodeWord_of_rsvd (by decide)⟩

end Sys2Proof.Machine
end

section
/-! SUPPORT. A host program run against the machine (R105 to R107): a bus access as the machine's next step, one host variable
assigned, and what the host's turn does at each form of line. -/

namespace Sys2Proof.Machine

/-! ### The machine's step on a given event -/

/-- The event put in front of the pending ones is the one the step handles. -/
theorem stepOn_eq_handle (e : Event) (s : State) : stepOn e s = handle e s := step_eq_handle _

theorem stepOn_write {s : State} (hr : s.rst = false) (off : BitVec 12) (v : Word) :
    stepOn (.write off v) s = .next (busWrite off v s) := by
  simp [stepOn_eq_handle, handle, hr]

theorem stepOn_read {s : State} (hr : s.rst = false) (off : BitVec 12) :
    stepOn (.read off) s = .next (busRead off s) := by
  simp [stepOn_eq_handle, handle, hr]

/-! ### The host's variables -/

/-- The host's variables after one of them is assigned, as a `rd` line does it. -/
def assignVar (vars : List (String × Word)) (y : String) (v : Word) : List (String × Word) :=
  (y, v) :: vars.filter (·.1 != y)

/-- Forgetting one variable leaves the others. -/
theorem lookup_filter_ne {y z : String} (hz : z ≠ y) (vars : List (String × Word)) :
    (vars.filter (·.1 != y)).lookup z = vars.lookup z := by
  induction vars with
  | nil => rfl
  | cons p ps ih =>
    by_cases hp : p.1 = y
    · have other : (z == p.1) = false := by simpa [hp] using hz
      rw [List.filter_cons_of_neg (by simp [hp]), ih, List.lookup_cons, other]
    · rw [List.filter_cons_of_pos (by simpa using hp), List.lookup_cons, List.lookup_cons, ih]

theorem lookupVar_assignVar_self (vars : List (String × Word)) (y : String) (v : Word) :
    lookupVar (assignVar vars y v) y = v := by
  simp [lookupVar, assignVar]

theorem lookupVar_assignVar_ne (vars : List (String × Word)) {y z : String} (v : Word) (hz : z ≠ y) :
    lookupVar (assignVar vars y v) z = lookupVar vars z := by
  have other : (z == y) = false := by simpa using hz
  rw [lookupVar, assignVar, List.lookup_cons, other, lookup_filter_ne hz, lookupVar]

/-! ### The host's turn, by the form of its line -/

section
variable {x : Session}

theorem hostTurn_wr {off : BitVec 12} {v : Word} (hr : x.machine.rst = false)
    (h : x.prog[x.line]? = some (.wr off v)) : x.hostTurn = .next
      { x with machine := busWrite off v x.machine, line := x.line + 1, trace := x.trace ++ [.write off v] } := by
  simp [Session.hostTurn, h, stepOn_write hr]

theorem hostTurn_rd {off : BitVec 12} {y : String} (hr : x.machine.rst = false)
    (h : x.prog[x.line]? = some (.rd off y)) : x.hostTurn = .next
      { x with
        machine := busRead off x.machine
        line := x.line + 1
        vars := assignVar x.vars y (regRead off x.machine)
        trace := x.trace ++ [.read off (regRead off x.machine)] } := by
  simp [Session.hostTurn, h, stepOn_read hr, assignVar, regRead]

theorem hostTurn_ifGoto {c : Cond} {l : String} (h : x.prog[x.line]? = some (.ifGoto c l)) : x.hostTurn = .next
    { x with line := if c.holds x.vars then x.prog.idxOf (.label l) else x.line + 1 } := by
  simp [Session.hostTurn, h]

theorem hostTurn_label_or_comment {l : String}
    (h : x.prog[x.line]? = some (.label l) ∨ x.prog[x.line]? = some (.comment l)) :
    x.hostTurn = .next { x with line := x.line + 1 } := by
  rcases h with h | h <;> simp [Session.hostTurn, h]

theorem hostTurn_waitIrq (h : x.prog[x.line]? = some .waitIrq) :
    x.hostTurn = .next { x with line := if x.machine.irq then x.line + 1 else x.line } := by
  simp [Session.hostTurn, h]

end

/-- Settles O60: each form of line has its one turn, in which only `wr` and `rd` reach the machine, by one bus access each. -/
theorem hostLinesActByBusAccessesAlone : Obligations.HostLinesActByBusAccessesAlone := by
  unfold Obligations.HostLinesActByBusAccessesAlone
  intro x off v y l c hr
  refine ⟨fun h => ?_, fun h => ?_, fun h => ?_, hostTurn_label_or_comment, fun h => ?_⟩
  · exact ⟨_, hostTurn_wr hr h, rfl, rfl, rfl, rfl⟩
  · exact ⟨_, hostTurn_rd hr h, rfl, rfl, lookupVar_assignVar_self .., fun _ hz => lookupVar_assignVar_ne _ _ hz, rfl⟩
  · exact ⟨_, hostTurn_ifGoto h, rfl, rfl, rfl, fun hc => by simp [hc], fun hc => by simp [hc]⟩
  · exact ⟨fun hi => by simp [hostTurn_waitIrq h, hi], fun hi => by simp [hostTurn_waitIrq h, hi]⟩

/-- Settles O59: the expansions are the equations of `expand`, and the two transactions render by their hex digits. -/
theorem hostProgramsExpandAndEncode : Obligations.HostProgramsExpandAndEncode := by
  unfold Obligations.HostProgramsExpandAndEncode
  exact ⟨fun _ => rfl, fun _ => rfl, fun _ _ _ => rfl, fun _ _ _ => rfl, rfl, by decide, by decide⟩

end Sys2Proof.Machine
end

section
/-! SUPPORT. The command cycle (R111 to R119): which words are illegal, what the engine's turn runs, how every command completes,
and what a step can do to a command that runs (R116). -/

namespace Sys2Proof

/-- R103: a word is illegal exactly when its OP is no opcode or a bit of RSVD is set. -/
theorem decodeWord_eq_none_iff (c : Word) :
    decodeWord c = none ↔ (0x08 ≤ (opField c).toNat ∨ rsvdField c ≠ 0#24) := by
  by_cases hr : rsvdField c = 0#24
  · rw [or_iff_left (not_not.2 hr), decodeWord, if_neg (not_not.2 hr)]
    split
    case h_9 =>
      simp only [imp_false, true_iff] at *
      omega
    all_goals simp [*]
  · simp [decodeWord_of_rsvd hr, hr]

/-- The table's reading of a word is the decoder's, of the word it names. -/
theorem decodeWord_of_decodeTableWord {nbits w : Nat} {i : Instr} (h : decodeTableWord nbits w = some i) :
    decodeWord (tableWord nbits w) = some i := by
  unfold decodeTableWord at h
  split at h
  · exact h
  · cases h

end Sys2Proof

namespace Sys2Proof.Machine

/-! ### Accepting a command -/

/-- Settles O19: a CMD write depends on BUSY alone, which the accept sets. -/
theorem cmdWriteIsAcceptedOnlyWhenIdle : Obligations.CmdWriteIsAcceptedOnlyWhenIdle := by
  unfold Obligations.CmdWriteIsAcceptedOnlyWhenIdle
  intro s c
  refine ⟨fun hs => ?_, fun hs => ?_⟩
  · have accepted : busWrite 0x01C#12 c s = accept c s := by simp [busWrite_cmd, (busy_eq_false_iff s).2 hs]
    obtain ⟨busyBit, -⟩ := statusWord_fields (accept c s)
    rw [accepted, regRead_status, busyBit, busy_eq_true_iff]
    exact ⟨rfl, nofun⟩
  · rw [busWrite_cmd, (busy_eq_true_iff s).2 hs]
    rfl

/-! ### The engine's turn -/

theorem popped_of_pending {s : State} {e : Event} {es : List Event} (h : s.inputs = e :: es) :
    s.popped = { s with inputs := es } := by
  rw [State.popped, h, List.tail_cons]

/-- With nothing pending the engine's turn takes no event. -/
theorem popped_of_none_pending {s : State} (h : s.inputs = []) : s.popped = { s with inputs := [] } := by
  rw [State.popped, h, List.tail_nil]

/-- A placed command is what the engine runs at its very next turn, in the state with its word latched (log entry 10). -/
theorem step_placeCommand {s : State} {c : Word} {i : Instr} (hd : decodeWord c = some i) :
    step (s.placeCommand c) = exec i { s with seq := .busy c, rst := false } :=
  step_eq_exec (.inr ⟨s.inputs, rfl⟩) rfl rfl hd

/-- Settles O7: the engine's turn runs the decoded command, and `withFetchWord` makes the next step such a turn. -/
theorem stepRunsTheDecodedCommand : Obligations.StepRunsTheDecodedCommand := by
  unfold Obligations.StepRunsTheDecodedCommand
  refine ⟨fun s c i hr hs hd => ⟨fun hi => ?_, fun es hi => ?_⟩,
    fun s nbits w i hd => step_placeCommand (decodeWord_of_decodeTableWord hd)⟩
  · have same : s.popped = s := by rw [popped_of_none_pending hi, ← hi]
    rw [step_eq_exec (.inl hi) hr hs hd, same]
  · rw [step_eq_exec (.inr ⟨es, hi⟩) hr hs hd, popped_of_pending hi]

/-! ### How a command completes -/

/-- An error's completion (R113, R192). -/
theorem raiseCmdError_completes (e : CmdError) (s : State) : Completes s (raiseCmdError e s) e.code e.info := by
  constructor <;> simp

/-- The error-free completion of a command's effect (R113). -/
theorem completeOk_effectOf_completes (i : Instr) (s : State) :
    Completes s (completeOk (effectOf i s)) .none 0#32 := by
  obtain ⟨-, herr, -⟩ := effectOf_flags i s
  constructor <;> simp [herr]

/-- An error discards every effect, so the completion fields are all it changes (R192). -/
theorem raiseCmdError_onlyCompletes (e : CmdError) (s : State) :
    OnlyCompletes s (raiseCmdError e s) e.code e.info :=
  ⟨raiseCmdError_completes e s, raiseCmdError_host e s, by constructor <;> simp, rfl, rfl⟩

/-- A command without a check completes with its effect in every state, and writes none of the host's side (R102, R113). -/
theorem exec_of_no_check {i : Instr} (hc : ∀ s, checkOf i s = none) (s : State) :
    exec i s = .next (completeOk (effectOf i s)) ∧ Completes s (completeOk (effectOf i s)) .none 0#32 ∧
    KeepsHostSide s (completeOk (effectOf i s)) :=
  ⟨exec_of_check_none (hc s), completeOk_effectOf_completes i s, (effectOf_host i s).trans (completeOk_host _)⟩

/-- Settles O39: NOP has no check, and its effect is the state itself. -/
theorem nopOnlyCompletes : Obligations.NopOnlyCompletes := by
  unfold Obligations.NopOnlyCompletes
  intro s
  obtain ⟨hx, completes, host⟩ := exec_of_no_check (i := .nop) (fun _ => rfl) s
  exact ⟨_, hx, completes, host, by constructor <;> simp [effectOf], rfl, rfl⟩

/-- Settles O40: CLEAR has no check, and the completion keeps what its effect cleared. -/
theorem clearZeroesTheResultState : Obligations.ClearZeroesTheResultState := by
  unfold Obligations.ClearZeroesTheResultState
  intro s
  obtain ⟨hx, completes, host⟩ := exec_of_no_check (i := .clear) (fun _ => rfl) s
  have weight : (completeOk (clearResults s)).resWeight = 0#32 := by simp
  exact ⟨_, hx, completes, host, rfl, rfl, rfl, rfl, rfl, rfl, rfl, rfl, rfl, rfl, rfl, rfl, rfl, weight⟩

/-- Every command completes, with an error or without (R113). -/
theorem exec_completes {i : Instr} {s t : State} (h : exec i s = .next t) : Completes s t t.err t.errInfo := by
  rcases (exec_next_iff ..).1 h with ⟨e, -, rfl⟩ | ⟨-, rfl⟩
  · exact raiseCmdError_completes e s
  · exact completeOk_effectOf_completes i s

/-- Every accepted word completes, whatever it is (R113, R119). -/
theorem runCommand_completes (c : Word) (s : State) :
    ∃ t, runCommand c s = .next t ∧ Completes s t t.err t.errInfo := by
  unfold runCommand
  split
  · rename_i i _
    obtain ⟨t, ht⟩ := exec_isNext i s
    exact ⟨t, ht, exec_completes ht⟩
  · exact ⟨_, rfl, raiseCmdError_completes _ s⟩

/-- Settles O56: the engine's turn in `BUSY(c)` runs `c`, and whatever runs completes. -/
theorem everyAcceptedCommandCompletes : Obligations.EveryAcceptedCommandCompletes := by
  unfold Obligations.EveryAcceptedCommandCompletes
  intro s c hr hs he
  obtain ⟨t, ht, completes⟩ := runCommand_completes c s.popped
  exact ⟨t, (step_eq_runCommand he hr hs).trans ht, completes.seq, completes.done, completes.doneIrq,
    completes.resWeight⟩

theorem runCommand_of_illegal {c : Word} (hc : decodeWord c = none) (s : State) :
    runCommand c s = .next (raiseCmdError ⟨.illegalCmd, c⟩ s) := by
  rw [runCommand, hc]

/-- R119: at the engine's turn an illegal word raises ILLEGAL_CMD. -/
theorem step_of_illegal {s : State} {c : Word} (he : EngineTurn s) (hr : s.rst = false) (hs : s.seq = .busy c)
    (hc : decodeWord c = none) : step s = .next (raiseCmdError ⟨.illegalCmd, c⟩ s.popped) := by
  rw [step_eq_runCommand he hr hs, runCommand_of_illegal hc]

/-- Settles O12: the illegal words are those the decoder refuses, and at its turn the engine raises their error. -/
theorem illegalWordsCompleteWithIllegalCmd : Obligations.IllegalWordsCompleteWithIllegalCmd := by
  unfold Obligations.IllegalWordsCompleteWithIllegalCmd
  refine ⟨decodeWord_eq_none_iff, fun s c es hr hs hes hc => ?_⟩
  obtain ⟨turn, taken⟩ : EngineTurn s ∧ s.popped = { s with inputs := es } := by
    rcases hes with ⟨hi, rfl⟩ | hi
    · exact ⟨.inl hi, popped_of_none_pending hi⟩
    · exact ⟨.inr ⟨es, hi⟩, popped_of_pending hi⟩
  obtain ⟨-, -, -, -, -, -, errField, -⟩ := statusWord_fields (raiseCmdError ⟨.illegalCmd, c⟩ s.popped)
  exact ⟨_, step_of_illegal turn hr hs ((decodeWord_eq_none_iff c).2 hc), taken ▸ raiseCmdError_onlyCompletes _ _,
    errField⟩

/-! ### What a step can do to a command that runs -/

/-- `t` has the running command of `s`, with what the command reads and the results it writes, and no pending bit that `s` has
not (R116). -/
structure KeepsCommand (s t : State) : Prop where
  seq : t.seq = s.seq
  params : t.params = s.params
  mem : t.mem = s.mem
  iter : t.iter = s.iter
  keyClass : t.keyClass = s.keyClass
  irqEn : t.irqEn = s.irqEn
  stepReady : t.stepReady = s.stepReady
  success : t.success = s.success
  done : t.done = s.done
  err : t.err = s.err
  errInfo : t.errInfo = s.errInfo
  resWeight : t.resWeight = s.resWeight
  lastTau : t.lastTau = s.lastTau
  lastMaxUpc : t.lastMaxUpc = s.lastMaxUpc
  lastSynW : t.lastSynW = s.lastSynW
  doneIrq : t.doneIrq = true → s.doneIrq = true
  errIrq : t.errIrq = true → s.errIrq = true

/-- `t` has the pending bits and the WBUSY of `s`, which the host's writes alone move while a command runs. -/
def SameHostFlags (s t : State) : Prop := t.doneIrq = s.doneIrq ∧ t.errIrq = s.errIrq ∧ t.wbusy = s.wbusy

theorem KeepsCommand.refl (s : State) : KeepsCommand s s := by
  constructor <;> simp

theorem busRead_keepsCommand (off : BitVec 12) (s : State) :
    KeepsCommand s (busRead off s) ∧ SameHostFlags s (busRead off s) := by
  obtain ⟨d, n, i, h⟩ := busRead_eq off s
  rw [h]
  exact ⟨by constructor <;> simp, rfl, rfl, rfl⟩

/-- A write while the engine is not idle is dropped, acknowledges, moves a window register, or is ignored (R88, R95). -/
theorem busWrite_cases_of_busy {s : State} (hs : s.busy = true) (off : BitVec 12) (v : Word) :
    busWrite off v s = dropWrite s ∨ busWrite off v s = (dropWrite s).bumpIdx ∨
    busWrite off v s = acknowledge v s ∨ (∃ x, busWrite off v s = { s with winSel := x }) ∨
    (∃ x, busWrite off v s = { s with winIdx := x }) ∨ busWrite off v s = s := by
  simpa [hs] using busWrite_cases off v s

theorem busWrite_keepsCommand {s : State} (hs : s.busy = true) (off : BitVec 12) (v : Word) :
    KeepsCommand s (busWrite off v s) := by
  rcases busWrite_cases_of_busy hs off v with h | h | h | ⟨x, h⟩ | ⟨x, h⟩ | h <;> rw [h]
  · constructor <;> simp
  · constructor <;> simp
  · constructor <;> simp +contextual
  · constructor <;> simp
  · constructor <;> simp
  · exact .refl s

/-- R116, for every event: the engine's turn completes the running command, an assertion of `rst` abandons it, and any other
event leaves it. -/
theorem handle_of_busy {e : Event} {s t : State} {c : Word} (hr : s.rst = false) (hs : s.seq = .busy c)
    (h : handle e s = .next t) :
    (e = .engine ∧ Completes s t t.err t.errInfo) ∨ (e = .assertRst ∧ t = s.enterReset true) ∨
    (KeepsCommand s t ∧ ((∀ off v, e ≠ .write off v) → SameHostFlags s t)) := by
  rcases (handle_next_iff e s t).1 h with
    ⟨he, hx⟩ | ⟨-, off, -, rfl⟩ | ⟨-, off, v, he, rfl⟩ | ⟨he, ht⟩ | ⟨-, rfl⟩
  · obtain ⟨t', ht', completes⟩ := runCommand_completes c s
    have runs : engineStep s = runCommand c s := by simp [engineStep, hr, hs]
    obtain rfl : t' = t := by simpa [runs, ht'] using hx
    exact .inl ⟨he, completes⟩
  · obtain ⟨keeps, flags⟩ := busRead_keepsCommand off s
    exact .inr (.inr ⟨keeps, fun _ => flags⟩)
  · have hb : s.busy = true := (busy_eq_true_iff s).2 (by simp [hs])
    exact .inr (.inr ⟨busWrite_keepsCommand hb off v, fun hw => absurd he (hw off v)⟩)
  · exact .inr (.inl ⟨he, ht⟩)
  · simp only [hr]
    exact .inr (.inr ⟨.refl s, fun _ => ⟨rfl, rfl, rfl⟩⟩)

/-- Settles O55: the step handles its next event, and no event but the engine's turn and reset touches a running command. -/
theorem onlyCompletionAndResetEndACommand : Obligations.OnlyCompletionAndResetEndACommand := by
  unfold Obligations.OnlyCompletionAndResetEndACommand
  intro s t c hr hs h
  rw [step_eq_handle] at h
  rcases handle_of_busy (s := s.popped) hr hs h with ⟨he, completes⟩ | ⟨he, rfl⟩ | ⟨keeps, flags⟩
  · exact .inl ⟨(engineTurn_iff s).2 he, completes.seq, completes.done⟩
  · exact .inr (.inl ⟨pending_of_nextInput he nofun, rfl, rfl⟩)
  · have unwritten : (∀ off v es, s.inputs ≠ .write off v :: es) → ∀ off v, s.nextInput ≠ .write off v := by
      intro hw off v he
      obtain ⟨es, hes⟩ := pending_of_nextInput he nofun
      exact hw off v es hes
    exact .inr (.inr ⟨keeps.seq.trans hs, keeps.params, keeps.mem, keeps.iter, keeps.keyClass, keeps.irqEn,
      keeps.stepReady, keeps.success, keeps.done, keeps.err, keeps.errInfo, keeps.resWeight, keeps.lastTau,
      keeps.lastMaxUpc, keeps.lastSynW, keeps.doneIrq, keeps.errIrq, fun hw => flags (unwritten hw)⟩)

end Sys2Proof.Machine
end

section
/-! SUPPORT. The algebra of circulant products (R130, R131, R138, R139): `(c − p) mod r` as an involution that adds up shifts, the
product of two supports, and the rotations a product is the sum of. -/

namespace Sys2Proof.Machine

/-! ### Positions modulo r -/

theorem subMod_eq_add_sub {r c p : Nat} (hp : p < r) : subMod r c p = (c + r - p) % r := by
  rw [subMod_eq hp, Nat.add_sub_assoc hp.le]

/-- p and `(c − p) mod r` are each other's shift to c (R131). -/
theorem subMod_subMod_self {r c p : Nat} (hc : c < r) (hp : p < r) : subMod r c (subMod r c p) = p := by
  have hx : subMod r c p < r := subMod_lt (by omega) c p
  rw [subMod_eq_iff hc hx hp, Nat.add_comm]
  exact (subMod_eq_iff hc hp hx).1 rfl

/-- Two shifts in a row are the shift by their sum. -/
theorem subMod_subMod {r c p q : Nat} (hc : c < r) (hp : p < r) (hq : q < r) :
    subMod r (subMod r c p) q = subMod r c ((p + q) % r) := by
  have hr : 0 < r := by omega
  have hy : subMod r c p < r := subMod_lt hr c p
  have hx : subMod r (subMod r c p) q < r := subMod_lt hr _ q
  have stepP : (subMod r c p + p) % r = c := (subMod_eq_iff hc hp hy).1 rfl
  have stepQ : (subMod r (subMod r c p) q + q) % r = subMod r c p := (subMod_eq_iff hy hq hx).1 rfl
  symm
  rw [subMod_eq_iff hc (Nat.mod_lt _ hr) hx, Nat.add_mod_mod, Nat.add_comm p, ← Nat.add_assoc, ← Nat.mod_add_mod,
    stepQ, stepP]

/-! ### A product as a count -/

/-- R130, for any support. -/
theorem bit_cp_eq_parity {r : Nat} (h : List Nat) (v : List Bool) {c : Nat} (hc : c < r) :
    bit (cp r h v) c = decide ((h.filter fun p => bit v (subMod r c p)).length % 2 = 1) := by
  rw [bit_cp h v hc, parity_map_eq]

@[simp] theorem cp_nil (r : Nat) (v : List Bool) : cp r [] v = zeroV r :=
  ext_bit (by simp) fun c hc => by rw [bit_cp [] v (by simpa using hc), bit_zeroV]; rfl

/-- Settles O28: the product's bit is a parity of shifts, and below r a shift needs no integers. -/
theorem circulantProductIsTheParityOfShifts : Obligations.CirculantProductIsTheParityOfShifts := by
  unfold Obligations.CirculantProductIsTheParityOfShifts
  intro r h v _ hlt _
  refine ⟨length_cp r h v, fun c hc => ?_, cp_nil r v⟩
  have shifts : (h.filter fun p => bit v (subMod r c p)) = h.filter fun p => v.getD ((c + r - p) % r) false :=
    List.filter_congr fun p hp => by rw [subMod_eq_add_sub (hlt p hp)]; rfl
  rw [← shifts]
  exact bit_cp_eq_parity h v hc

/-! ### The product of two supports -/

/-- `p ↦ (c − p) mod r` pairs the members of h that it sends into g with the members of g that it sends into h. -/
theorem length_filter_subMod_comm {r c : Nat} {h g : List Nat} (hc : c < r) (hh : h.Nodup) (hg : g.Nodup)
    (hlt : ∀ p ∈ h, p < r) (glt : ∀ p ∈ g, p < r) :
    (h.filter fun p => decide (subMod r c p ∈ g)).length = (g.filter fun q => decide (subMod r c q ∈ h)).length := by
  have back : ∀ p < r, subMod r c (subMod r c p) = p := fun p hp => subMod_subMod_self hc hp
  have paired : ((h.filter fun p => decide (subMod r c p ∈ g)).map (subMod r c)).Perm
      (g.filter fun q => decide (subMod r c q ∈ h)) := by
    refine (List.perm_ext_iff_of_nodup (List.Nodup.map_on ?_ (hh.filter _)) (hg.filter _)).2 fun q => ?_
    · intro x hx y hy e
      rw [← back x (hlt x (List.mem_filter.1 hx).1), e, back y (hlt y (List.mem_filter.1 hy).1)]
    · simp only [List.mem_map, List.mem_filter, decide_eq_true_eq]
      constructor
      · rintro ⟨p, ⟨hp, hpg⟩, rfl⟩
        exact ⟨hpg, (back p (hlt p hp)).symm ▸ hp⟩
      · rintro ⟨hq, hqh⟩
        exact ⟨subMod r c q, ⟨hqh, (back q (glt q hq)).symm ▸ hq⟩, back q (glt q hq)⟩
  simpa using paired.length_eq

@[simp] theorem length_indicator (n : Nat) (S : List Nat) : (indicator n S).length = n := length_bits ..

theorem bit_indicator {n i : Nat} (S : List Nat) (hi : i < n) : bit (indicator n S) i = decide (i ∈ S) :=
  bit_bits_of_lt _ hi

/-- The product of a support and an indicator counts the pairs that shift to c. -/
theorem bit_cp_indicator {r c : Nat} (h g : List Nat) (hc : c < r) : bit (cp r h (indicator r g)) c =
    decide ((h.filter fun p => decide (subMod r c p ∈ g)).length % 2 = 1) := by
  have pairs : ∀ p, bit (indicator r g) (subMod r c p) = decide (subMod r c p ∈ g) := fun p =>
    bit_indicator g (subMod_lt (by omega) c p)
  rw [bit_cp_eq_parity h _ hc, funext pairs]

/-- Commutativity of supports (R139). -/
theorem cp_indicator_comm {r : Nat} {h g : List Nat} (hh : h.Nodup) (hg : g.Nodup) (hlt : ∀ p ∈ h, p < r)
    (glt : ∀ p ∈ g, p < r) : cp r h (indicator r g) = cp r g (indicator r h) := by
  refine ext_bit (by simp) fun c hc => ?_
  have hc' : c < r := by simpa using hc
  rw [bit_cp_indicator h g hc', bit_cp_indicator g h hc', length_filter_subMod_comm hc' hh hg hlt glt]

theorem mem_supp_iff (v : List Bool) (i : Nat) : i ∈ supp v ↔ i < v.length ∧ bit v i = true := by
  simp [supp]

/-- A vector is the indicator of its support (R14). -/
theorem indicator_supp (v : List Bool) : indicator v.length (supp v) = v :=
  ext_bit (by simp) fun i hi => by
    have hi' : i < v.length := by simpa using hi
    rw [bit_indicator _ hi', Bool.eq_iff_iff, decide_eq_true_eq, mem_supp_iff, and_iff_right hi']

/-- R131: the product's bit is the parity of `v` over the positions adjacent to the check. -/
theorem bit_cp_eq_parity_adjacent {r c : Nat} {h : List Nat} {v : List Bool} (hh : h.Nodup) (hlt : ∀ p ∈ h, p < r)
    (hv : v.length = r) (hc : c < r) : bit (cp r h v) c =
      decide (((List.range r).filter fun j => adjacent r h j c && bit v j).length % 2 = 1) := by
  have ones : indicator r (supp v) = v := hv ▸ indicator_supp v
  have suppNodup : (supp v).Nodup := List.nodup_range.filter _
  have suppLt : ∀ j ∈ supp v, j < r := fun j hj => hv ▸ ((mem_supp_iff v j).1 hj).1
  have reads : ((supp v).filter fun j => decide (subMod r c j ∈ h)) =
      (List.range r).filter fun j => adjacent r h j c && bit v j := by
    rw [supp, hv, List.filter_filter]; rfl
  calc bit (cp r h v) c = bit (cp r h (indicator r (supp v))) c := by rw [ones]
    _ = _ := by rw [bit_cp_indicator h _ hc, length_filter_subMod_comm hc hh suppNodup hlt suppLt, reads]

/-- Settles O29: adjacency is membership of a shift, and the parity over the adjacent positions is the pairing of h with the
support of v. -/
theorem circulantProductReadsAdjacentPositions : Obligations.CirculantProductReadsAdjacentPositions := by
  unfold Obligations.CirculantProductReadsAdjacentPositions
  intro r h v c hh hlt hv hc
  refine ⟨fun j hj => ?_, bit_cp_eq_parity_adjacent hh hlt hv hc⟩
  rw [adjacent, decide_eq_true_eq, subMod_eq_add_sub hj]

/-! ### Rotations -/

@[simp] theorem length_rot (r k : Nat) (v : List Bool) : (rot r k v).length = r := length_bits ..

theorem bit_rot {r c : Nat} (k : Nat) (v : List Bool) (hc : c < r) : bit (rot r k v) c = bit v (subMod r c k) :=
  bit_bits_of_lt _ hc

section
variable {r k : Nat} {h : List Nat} (hk : k < r) (hlt : ∀ p ∈ h, p < r) (v : List Bool)
include hk hlt

/-- Shifting the argument shifts the support (R139). -/
theorem cp_rot : cp r h (rot r k v) = cp r (h.map fun p => (p + k) % r) v := by
  refine ext_bit (by simp) fun c hc => ?_
  have hc' : c < r := by simpa using hc
  rw [bit_cp _ _ hc', bit_cp _ _ hc', List.map_map]
  refine congrArg parity (List.map_congr_left fun p hp => ?_)
  rw [bit_rot k v (subMod_lt (by omega) c p), subMod_subMod hc' (hlt p hp) hk]; rfl

/-- Shifting the product shifts the support (R139). -/
theorem rot_cp : rot r k (cp r h v) = cp r (h.map fun p => (p + k) % r) v := by
  refine ext_bit (by simp) fun c hc => ?_
  have hc' : c < r := by simpa using hc
  rw [bit_rot k _ hc', bit_cp _ _ (subMod_lt (by omega) c k), bit_cp _ _ hc', List.map_map]
  refine congrArg parity (List.map_congr_left fun p hp => ?_)
  rw [subMod_subMod hc' hk (hlt p hp), Nat.add_comm k p]; rfl

end

/-- The response to a single position is the support shifted to it (R139). -/
theorem cp_point {r j : Nat} {h : List Nat} (hj : j < r) (hh : h.Nodup) (hlt : ∀ p ∈ h, p < r) :
    cp r h (indicator r [j]) = indicator r (h.map fun p => (p + j) % r) := by
  rw [cp_indicator_comm hh (List.nodup_singleton j) hlt (by simpa using hj)]
  refine ext_bit (by simp) fun c hc => ?_
  have hc' : c < r := by simpa using hc
  have shifted : subMod r c j ∈ h ↔ ∃ p ∈ h, (p + j) % r = c :=
    ⟨fun hm => ⟨_, hm, (subMod_eq_iff hc' hj (hlt _ hm)).1 rfl⟩,
      fun ⟨p, hp, e⟩ => (subMod_eq_iff hc' hj (hlt p hp)).2 e ▸ hp⟩
  have hs : subMod r c j < r := subMod_lt (by omega) c j
  rw [bit_cp _ _ hc', bit_indicator _ hc', List.map_singleton, bit_indicator h hs]
  simp [parity, shifted]

/-- Settles O30: each conjunct is one law of the product. -/
theorem circulantProductLaws : Obligations.CirculantProductLaws := by
  unfold Obligations.CirculantProductLaws
  intro r k j h g u v _ hk hj hh hg hlt glt hu hv
  exact ⟨cp_xorV r h hu hv, cp_zeroV r h, (cp_rot hk hlt v).trans (rot_cp hk hlt v).symm, rot_cp hk hlt v,
    cp_indicator_comm hh hg hlt glt, cp_point hj hh hlt⟩

/-- A rotation of the list of bits (R138) is the shift of R139. -/
theorem rotate_eq_rot {r p : Nat} {v : List Bool} (hv : v.length = r) (hp : p < r) : v.rotate (r - p) = rot r p v := by
  refine ext_bit (by simp [hv]) fun c hc => ?_
  have hc' : c < r := by simpa [hv] using hc
  have hs : subMod r c p < v.length := hv ▸ subMod_lt (by omega) c p
  rw [bit_rot p v hc', bit_eq_getElem hc, bit_eq_getElem hs, List.getElem_rotate]
  simp [hv, subMod_eq hp]

/-- One more member of the support adds one rotation. -/
theorem cp_cons (r p : Nat) (h : List Nat) (v : List Bool) : cp r (p :: h) v = xorV (rot r p v) (cp r h v) := by
  refine ext_bit (by simp) fun c hc => ?_
  have hc' : c < r := by simpa using hc
  rw [bit_xorV (by simp), bit_rot p v hc', bit_cp _ _ hc', bit_cp _ _ hc']; rfl

/-- R138, from any accumulator. -/
theorem foldl_rotate_eq_xorV_cp {r : Nat} {h : List Nat} {v acc : List Bool} (hlt : ∀ p ∈ h, p < r) (hv : v.length = r)
    (ha : acc.length = r) : h.foldl (fun acc p => xorV acc (v.rotate (r - p))) acc = xorV acc (cp r h v) := by
  induction h generalizing acc with
  | nil => rw [List.foldl_nil, cp_nil, xorV_zeroV ha]
  | cons p h ih =>
    obtain ⟨hp, hlt'⟩ := List.forall_mem_cons.1 hlt
    have hrot : (rot r p v).length = r := length_rot r p v
    rw [List.foldl_cons, rotate_eq_rot hv hp, ih hlt' (by simp [ha]), xorV_assoc ha hrot (length_cp r h v), cp_cons]

/-- Settles O31: the accumulation from 0 leaves the product alone. -/
theorem rotateAccumulationIsTheProduct : Obligations.RotateAccumulationIsTheProduct := by
  unfold Obligations.RotateAccumulationIsTheProduct
  intro r h v hlt hv
  have sum := foldl_rotate_eq_xorV_cp hlt hv (length_zeroV r)
  rw [xorV_comm, xorV_zeroV (length_cp r h v)] at sum
  exact sum.symm

end Sys2Proof.Machine
end

section
/-! SUPPORT. The syndrome commands (R132 to R137) and the order of the key's entries (R140): what KeyCheck reports, how CPROD0,
CPROD1 and SYNDROME complete, and that a command's effect reads the key stores as sets. -/

namespace Sys2Proof.Machine

/-! ### What KeyCheck reports -/

/-- The report of entry k of H0 is k (R133). -/
theorem keyInfo_false {k : Nat} (hk : k < 2 ^ 31) : keyInfo false k = BitVec.ofNat 32 k := by
  refine BitVec.eq_of_toNat_eq ?_
  simp only [keyInfo, BitVec.toNat_append, BitVec.toNat_ofBool, BitVec.toNat_ofNat, Bool.toNat_false, Nat.zero_shiftLeft,
    Nat.zero_or]
  omega

/-- The report of entry k of H1 is `2^31 + k` (R133). -/
theorem keyInfo_true {k : Nat} (hk : k < 2 ^ 31) : keyInfo true k = BitVec.ofNat 32 (2 ^ 31 + k) := by
  refine BitVec.eq_of_toNat_eq ?_
  simp only [keyInfo, BitVec.toNat_append, BitVec.toNat_ofBool, BitVec.toNat_ofNat, Bool.toNat_true]
  rw [Nat.mod_eq_of_lt hk, ← Nat.shiftLeft_add_eq_or_of_lt hk]
  omega

/-- A fault in H0 is reported whatever H1 holds (R133). -/
theorem keyCheck_of_firstBad_h0 {s : State} {k : Nat} (h : FirstBad s.params.r s.mem.h0 k) :
    keyCheck s = some ⟨.invalidKey, keyInfo false k⟩ := by
  rw [keyCheck, (scanKey_eq_some ..).2 h]

/-- A fault in H1 is reported when H0 has none (R133). -/
theorem keyCheck_of_firstBad_h1 {s : State} {k : Nat} (h0 : ∀ j, ¬ BadEntry s.params.r s.mem.h0 j)
    (h1 : FirstBad s.params.r s.mem.h1 k) : keyCheck s = some ⟨.invalidKey, keyInfo true k⟩ := by
  rw [keyCheck, (scanKey_eq_none ..).2 h0, (scanKey_eq_some ..).2 h1]

theorem keyCheck_of_no_badEntry {s : State} (h0 : ∀ j, ¬ BadEntry s.params.r s.mem.h0 j)
    (h1 : ∀ j, ¬ BadEntry s.params.r s.mem.h1 j) : keyCheck s = none := by
  rw [keyCheck, (scanKey_eq_none ..).2 h0, (scanKey_eq_none ..).2 h1]

/-- A store without an entry at fault is a set of as many members as it has entries, all below r (R133). -/
theorem keySet_of_no_badEntry {r : Nat} {l : List Word} (h : ∀ j, ¬ BadEntry r l j) :
    (keySet l).length = l.length ∧ (keySet l).Nodup ∧ ∀ p ∈ keySet l, p < r := by
  obtain ⟨hlt, hnodup⟩ := (no_badEntry_iff r l).1 h
  rw [keySet_of_nodup hnodup]
  exact ⟨List.length_map .., keySet_of_nodup hnodup ▸ nodup_keySet l, by simpa using hlt⟩

/-- Settles O34: KeyCheck's scans find the first entry at fault, whose index is below w and so below `2^31`. -/
theorem keyCheckReportsTheFirstFault : Obligations.KeyCheckReportsTheFirstFault := by
  unfold Obligations.KeyCheckReportsTheFirstFault
  intro s hm
  obtain ⟨len0, len1, -⟩ := (Memory.wf_iff _ _).1 hm
  obtain ⟨-, hr, -, hwr, -⟩ := (legalParams_iff ..).1 s.params.legal
  refine ⟨fun k hk => ?_, fun k h0 hk => ?_, fun h0 h1 => ?_⟩
  · have hlt : k < s.mem.h0.length := hk.1.1
    rw [keyCheck_of_firstBad_h0 hk, keyInfo_false (by omega)]
  · have hlt : k < s.mem.h1.length := hk.1.1
    rw [keyCheck_of_firstBad_h1 h0 hk, keyInfo_true (by omega)]
  · obtain ⟨card0, nodup0, lt0⟩ := keySet_of_no_badEntry h0
    obtain ⟨card1, nodup1, lt1⟩ := keySet_of_no_badEntry h1
    exact ⟨keyCheck_of_no_badEntry h0 h1, card0.trans len0, nodup0, lt0, card1.trans len1, nodup1, lt1⟩

/-! ### How the syndrome commands complete -/

/-- A command whose check fails completes with that error and no effect (R192). -/
theorem exec_onlyCompletes_of_check_some {i : Instr} {s : State} {e : CmdError} (h : checkOf i s = some e) :
    ∃ t, exec i s = .next t ∧ OnlyCompletes s t e.code e.info :=
  ⟨_, exec_of_check_some h, raiseCmdError_onlyCompletes e s⟩

/-- On a valid key SYNDROME's check is ErrCheck (R137). -/
theorem checkOf_syndrome_of_keyValid {s : State} (hk : KeyValid s) : checkOf .syndrome s = errCheck s := by
  rw [checkOf, show keyCheck s = none from hk, Option.none_or]

/-- Settles O36: on a valid key the wrong weight is what SYNDROME's check raises. -/
theorem wrongWeightIsRejectedWithoutEffect : Obligations.WrongWeightIsRejectedWithoutEffect := by
  unfold Obligations.WrongWeightIsRejectedWithoutEffect
  intro s hk hweight
  have raised : checkOf .syndrome s = some ⟨.invalidError, BitVec.ofNat 32 (einWeight s)⟩ := by
    rw [checkOf_syndrome_of_keyValid hk]; exact if_pos hweight
  exact exec_onlyCompletes_of_check_some raised

/-- A command whose check passes and whose effect is a new SYN completes with it, and changes nothing else (R135 to R137). -/
theorem exec_of_effectOf_eq_setSyn {i : Instr} {s : State} {v : List Bool} (hc : checkOf i s = none)
    (he : effectOf i s = s.setSyn v) : ∃ t, exec i s = .next t ∧ Completes s t .none 0#32 ∧ KeepsHostSide s t ∧
      KeepsDecoder s t ∧ t.wbusy = s.wbusy ∧ t.mem.syn = v := by
  have completes := completeOk_effectOf_completes i s
  have host := (effectOf_host i s).trans (completeOk_host _)
  rw [he] at completes host
  exact ⟨_, he ▸ exec_of_check_none hc, completes, host, by constructor <;> simp, rfl, rfl⟩

/-- Settles O41: each of the three commands passes its check, and its effect is the new SYN. -/
theorem syndromeCommandsWriteSyn : Obligations.SyndromeCommandsWriteSyn := by
  unfold Obligations.SyndromeCommandsWriteSyn
  intro s hk
  refine ⟨exec_of_effectOf_eq_setSyn (i := .cprod0) hk rfl, exec_of_effectOf_eq_setSyn (i := .cprod1) hk rfl,
    fun hweight => exec_of_effectOf_eq_setSyn (i := .syndrome) ?_ rfl⟩
  rw [checkOf_syndrome_of_keyValid hk]
  exact if_neg (not_not.2 hweight)

/-! ### The order of the key's entries -/

@[simp] theorem rekey_writes (s : State) (l0 l1 : List Word) :
    (s.rekey l0 l1).mem.h0 = l0 ∧ (s.rekey l0 l1).mem.h1 = l1 :=
  ⟨rfl, rfl⟩

/-- What the commands read besides the key is as it was. -/
@[simp] theorem rekey_keeps (s : State) (l0 l1 : List Word) :
    (s.rekey l0 l1).params = s.params ∧ (s.rekey l0 l1).mem.ein = s.mem.ein ∧
    (s.rekey l0 l1).mem.syn = s.mem.syn ∧ (s.rekey l0 l1).mem.res = s.mem.res ∧
    (s.rekey l0 l1).mem.eout = s.mem.eout ∧ (s.rekey l0 l1).iter = s.iter ∧
    (s.rekey l0 l1).keyClass = s.keyClass ∧ (s.rekey l0 l1).stepReady = s.stepReady :=
  ⟨rfl, rfl, rfl, rfl, rfl, rfl, rfl, rfl⟩

section
variable {s : State} {l0 l1 : List Word} (p0 : l0.Perm s.mem.h0) (p1 : l1.Perm s.mem.h1)
include p0 p1

/-- A valid key is valid in any entry order (R140). -/
theorem keyValid_rekey : KeyValid (s.rekey l0 l1) ↔ KeyValid s := by
  have members0 : (∀ x ∈ l0, x.toNat < s.params.r) ↔ ∀ x ∈ s.mem.h0, x.toNat < s.params.r := by
    simp only [p0.mem_iff]
  have members1 : (∀ x ∈ l1, x.toNat < s.params.r) ↔ ∀ x ∈ s.mem.h1, x.toNat < s.params.r := by
    simp only [p1.mem_iff]
  rw [keyValid_iff, keyValid_iff]
  simp only [rekey_writes, rekey_keeps, members0, members1, p0.nodup_iff, p1.nodup_iff]

theorem cp_rekey (v : List Bool) : cp s.params.r (s.rekey l0 l1).key0 v = cp s.params.r s.key0 v ∧
    cp s.params.r (s.rekey l0 l1).key1 v = cp s.params.r s.key1 v :=
  ⟨cp_perm _ (keySet_perm p0) v, cp_perm _ (keySet_perm p1) v⟩

theorem counters_rekey : (s.rekey l0 l1).counters = s.counters :=
  upcOf_perm _ (keySet_perm p0) (keySet_perm p1) _

theorem flip_rekey (F : List Bool) : Machine.flip F (s.rekey l0 l1) = (Machine.flip F s).rekey l0 l1 := by
  simp only [Machine.flip, rekey_keeps, cp_rekey p0 p1]; rfl

theorem maskPass_rekey (A : Algo) (M : List Bool) : maskPass A M (s.rekey l0 l1) = (maskPass A M s).rekey l0 l1 := by
  simp only [maskPass, counters_rekey p0 p1, flip_rekey p0 p1, rekey_keeps]

theorem firstFlips_rekey (A : Algo) (u : List Nat) (τ : Nat) (F : List Bool) :
    firstFlips A u τ F (s.rekey l0 l1) = (firstFlips A u τ F s).rekey l0 l1 := by
  have masked (B G : List Bool) : setMasks B G (s.rekey l0 l1) = (setMasks B G s).rekey l0 l1 := rfl
  unfold firstFlips
  simp only [rekey_keeps, masked]
  generalize bits (2 * s.params.r) (A.masks u τ s.keyClass).1 = B, bits (2 * s.params.r) (A.masks u τ s.keyClass).2 = G
  split
  · exact flip_rekey (s := setMasks B G s) p0 p1 _
  · rw [flip_rekey (s := setMasks B G s) p0 p1, maskPass_rekey (s := Machine.flip F (setMasks B G s)) p0 p1,
      maskPass_rekey (s := maskPass A B (Machine.flip F (setMasks B G s))) p0 p1]

theorem iteration_rekey (A : Algo) (k : Word) : iteration A k (s.rekey l0 l1) = (iteration A k s).rekey l0 l1 := by
  have sameThreshold : threshold A k (s.rekey l0 l1) = threshold A k s := by
    simp only [threshold, counters_rekey p0 p1, rekey_keeps]
  unfold iteration
  simp only [counters_rekey p0 p1, sameThreshold, rekey_keeps, firstFlips_rekey p0 p1, flip_rekey p0 p1]
  split <;> rfl

theorem decodeRound_rekey (A : Algo) : decodeRound A (s.rekey l0 l1) = (decodeRound A s).rekey l0 l1 := by
  simp only [decodeRound, rekey_keeps, iteration_rekey p0 p1]; rfl

theorem decodeLoop_rekey (A : Algo) (n : Nat) :
    decodeLoop A n (s.rekey l0 l1) = (decodeLoop A n s).rekey l0 l1 := by
  induction n generalizing s with
  | zero => rfl
  | succ n ih =>
    have round := decodeRound_outside A s
    simp only [decodeLoop, rekey_keeps, decodeRound_rekey p0 p1]
    split
    · rfl
    · exact ih (round.h0 ▸ p0) (round.h1 ▸ p1)

/-- A command's effect depends on the key stores as sets (R140). -/
theorem effectOf_rekey (i : Instr) : effectOf i (s.rekey l0 l1) = (effectOf i s).rekey l0 l1 := by
  cases i
  case nop => rfl
  case clear => rfl
  case decInit => rfl
  case cprod0 => simp only [effectOf, rekey_keeps, cp_rekey p0 p1]; rfl
  case cprod1 => simp only [effectOf, rekey_keeps, cp_rekey p0 p1]; rfl
  case syndrome => simp only [effectOf, rekey_keeps, cp_rekey p0 p1]; rfl
  case decode =>
    have loop := decodeLoop_rekey (s := decInit s) p0 p1 s.params.fns s.params.nbIter
    exact congrArg (State.setStepReady · true) loop
  case decStep =>
    have round := iteration_rekey p0 p1 s.params.fns (nextIter s)
    exact congrArg (fun t => judge (t.setIter (nextIter s))) round

/-- KeyCheck answers the same for any entry order, or rejects both, perhaps at another entry (R140). -/
theorem keyCheck_rekey : (keyCheck (s.rekey l0 l1) = none ∧ keyCheck s = none) ∨
    ∃ e e', keyCheck s = some e ∧ keyCheck (s.rekey l0 l1) = some e' ∧ e.code = .invalidKey ∧ e'.code = .invalidKey := by
  have valid : keyCheck (s.rekey l0 l1) = none ↔ keyCheck s = none := keyValid_rekey p0 p1
  cases h : keyCheck s with
  | none => exact .inl ⟨valid.2 h, rfl⟩
  | some e =>
    obtain ⟨e', h'⟩ := Option.ne_none_iff_exists'.1 fun h' => by simpa [h] using valid.1 h'
    exact .inr ⟨e, e', rfl, h', keyCheck_code h, keyCheck_code h'⟩

/-- A command's check answers the same for any entry order, or rejects both keys. -/
theorem checkOf_rekey (i : Instr) : checkOf i (s.rekey l0 l1) = checkOf i s ∨
    ∃ e e', checkOf i s = some e ∧ checkOf i (s.rekey l0 l1) = some e' ∧ e.code = .invalidKey ∧
      e'.code = .invalidKey := by
  have sameWeight : errCheck (s.rekey l0 l1) = errCheck s := rfl
  have sameReady : readyCheck (s.rekey l0 l1) = readyCheck s := rfl
  rcases keyCheck_rekey p0 p1 with ⟨h', h⟩ | ⟨e, e', h, h', he, he'⟩
  · exact .inl (by cases i <;> simp [checkOf, h, h', sameWeight, sameReady])
  · cases i <;> simp [checkOf, h, h', he, he', sameReady]

end

/-- Settles O54: the two runs raise an error for both orders, or complete with effects that differ in the order alone. -/
theorem entryOrderHasNoEffect : Obligations.EntryOrderHasNoEffect := by
  unfold Obligations.EntryOrderHasNoEffect
  intro i s l0 l1 p0 p1
  refine ⟨keyValid_rekey p0 p1, ?_⟩
  rcases checkOf_rekey p0 p1 i with same | ⟨e, e', h, h', he, he'⟩
  · cases h : checkOf i s with
    | none =>
      refine ⟨_, _, exec_of_check_none h, exec_of_check_none (same.trans h), ?_, fun _ => ?_⟩ <;>
        rw [effectOf_rekey p0 p1] <;> rfl
    | some e => exact ⟨_, _, exec_of_check_some h, exec_of_check_some (same.trans h), rfl, fun _ => rfl⟩
  · refine ⟨_, _, exec_of_check_some h, exec_of_check_some h', ?_, fun hne => absurd he hne⟩
    obtain ⟨code, info⟩ := e
    obtain ⟨code', info'⟩ := e'
    cases he
    cases he'
    rfl

end Sys2Proof.Machine
end

section
/-! SUPPORT. `RES ⊕ Syn(h0, h1, EOUT)` over the steps of the machine (R165): what DECODE, DEC_INIT and DEC_STEP make of it, and that
every other event leaves it with the key and ITER, or ends the prepared state. -/

namespace Sys2Proof.Machine

/-! ### What the decoder commands make of it -/

/-- `sat32(n)` as a number (R13). -/
theorem toNat_sat32 (n : Nat) : (sat32 n).toNat = min n (2 ^ 32 - 1) := by
  rw [sat32, BitVec.toNat_ofNat]; omega

/-- DecodeLoop keeps the vector, whatever number of rounds it runs (R162, R165). -/
theorem decodeLoop_decoderInput (A : Algo) (n : Nat) {s : State} (hw : s.MemOk) :
    (decodeLoop A n s).decoderInput = s.decoderInput := by
  obtain ⟨m, -, -, -, h⟩ := decodeLoop_eq A n s
  rw [h, decoderInput_congr (s := roundsFrom A m s) (by simp) (by simp) (by simp) (by simp) (by simp)]
  exact (roundsFrom_wf A m hw).2

/-- DECODE and DEC_INIT start from SYN (R161). -/
theorem effectOf_decode_decoderInput {s : State} (hw : s.MemOk) : (effectOf .decode s).decoderInput = s.mem.syn :=
  (decodeLoop_decoderInput _ _ (decInit_wf hw)).trans (decInit_decoderInput hw)

theorem effectOf_decInit_decoderInput {s : State} (hw : s.MemOk) : (effectOf .decInit s).decoderInput = s.mem.syn :=
  decInit_decoderInput hw

theorem effectOf_decStep_decoderInput {s : State} (hw : s.MemOk) :
    (effectOf .decStep s).decoderInput = s.decoderInput :=
  iteration_decoderInput s.params.fns (nextIter s) hw

/-- A command whose check passed, or that ended without error, completed with its effect (R112, R113). -/
theorem eq_completeOk_of_exec {i : Instr} {s t : State} (hx : exec i s = .next t)
    (h : checkOf i s = none ∨ t.err = .none) : checkOf i s = none ∧ t = completeOk (effectOf i s) := by
  rcases (exec_next_iff ..).1 hx with ⟨e, hc, rfl⟩ | done
  · rcases h with h | h
    · simp [hc] at h
    · exact absurd h (checkOf_code_ne_none hc)
  · exact done

theorem checkOf_decStep_of_ready {s : State} (hr : s.stepReady = true) : checkOf .decStep s = none := by
  simp [checkOf, readyCheck, hr]

/-- R165 of the two commands that start a decode. -/
theorem starts_of_exec {i : Instr} {s t : State} (hw : s.MemOk) (hi : i = .decode ∨ i = .decInit)
    (hx : exec i s = .next t) (h : KeyValid s ∨ t.err = .none) :
    t.err = .none ∧ t.stepReady = true ∧ t.decoderInput = s.mem.syn ∧ KeyValid t ∧ t.mem.h0 = s.mem.h0 ∧
      t.mem.h1 = s.mem.h1 ∧ (i = .decInit → t.iter = 0#32) := by
  have check : checkOf i s = keyCheck s := by rcases hi with rfl | rfl <;> rfl
  obtain ⟨hc, rfl⟩ := eq_completeOk_of_exec hx (h.imp_left fun hk => check.trans hk)
  have host := exec_host hx
  have input : (effectOf i s).decoderInput = s.mem.syn := by
    rcases hi with rfl | rfl
    · exact effectOf_decode_decoderInput hw
    · exact effectOf_decInit_decoderInput hw
  exact ⟨rfl, by simp [effectOf_stepReady, hi], input,
    (keyValid_congr host.params host.h0 host.h1).2 (check.symm.trans hc), host.h0, host.h1, by rintro rfl; rfl⟩

/-- R165 and R164 of a DEC_STEP in a prepared state. -/
theorem steps_of_exec {s t : State} (hw : s.MemOk) (hr : s.stepReady = true) (hx : exec .decStep s = .next t) :
    t.err = .none ∧ t.stepReady = true ∧ t.decoderInput = s.decoderInput ∧ t.mem.h0 = s.mem.h0 ∧
      t.mem.h1 = s.mem.h1 ∧ t.iter.toNat = min (s.iter.toNat + 1) (2 ^ 32 - 1) := by
  obtain ⟨-, rfl⟩ := eq_completeOk_of_exec hx (.inl (checkOf_decStep_of_ready hr))
  have host := exec_host hx
  exact ⟨rfl, by simp [effectOf_stepReady, hr], effectOf_decStep_decoderInput hw, host.h0, host.h1, toNat_sat32 _⟩

/-! ### The other events -/

/-- `t` has the build, the key, RES, EOUT and ITER of `s`. -/
structure KeepsDecoding (s t : State) : Prop where
  params : t.params = s.params
  h0 : t.mem.h0 = s.mem.h0
  h1 : t.mem.h1 = s.mem.h1
  res : t.mem.res = s.mem.res
  eout : t.mem.eout = s.mem.eout
  iter : t.iter = s.iter

theorem KeepsDecoding.refl (s : State) : KeepsDecoding s s := ⟨rfl, rfl, rfl, rfl, rfl, rfl⟩

theorem KeepsDecoding.decoderInput {s t : State} (h : KeepsDecoding s t) : t.decoderInput = s.decoderInput :=
  decoderInput_congr h.params h.h0 h.h1 h.res h.eout

/-- A command that starts no decode and runs no iteration keeps the decoding, or it is CLEAR (R117, R118, R135 to R137). -/
theorem exec_keepsDecoding {i : Instr} {s t : State} (hx : exec i s = .next t)
    (hi : i ∉ [Instr.decode, Instr.decInit, Instr.decStep]) : KeepsDecoding s t ∨ t.stepReady = false := by
  rcases (exec_next_iff ..).1 hx with ⟨e, -, rfl⟩ | ⟨-, rfl⟩
  · exact .inl ⟨rfl, rfl, rfl, rfl, rfl, rfl⟩
  cases i
  case decode => simp at hi
  case decInit => simp at hi
  case decStep => simp at hi
  case clear => exact .inr rfl
  all_goals exact .inl ⟨rfl, rfl, rfl, rfl, rfl, rfl⟩

theorem Window.store_eout (p : Params) (m : Memory) (i : Nat) (x : Word) (w : Window) :
    (w.store p m i x).eout = m.eout := by cases w <;> rfl

/-- A WIN_DATA write keeps the decoding, unless it stores a key entry, which ends the prepared state (R86). -/
theorem winWrite_keepsDecoding (s : State) (x : Word) :
    KeepsDecoding s (s.winWrite x) ∨ (s.winWrite x).stepReady = false := by
  rcases winWrite_cases s x with h | ⟨w, -, -, -, h⟩ <;> rw [h]
  · exact .inl (.refl s)
  cases hk : w.isKey with
  | true => exact .inr (Bool.and_false _)
  | false =>
    obtain ⟨h0, h1⟩ := Window.store_keys s.params s.mem s.winIdx.toNat x hk
    exact .inl ⟨rfl, h0, h1, Window.store_res .., Window.store_eout .., rfl⟩

theorem busWrite_keepsDecoding (off : BitVec 12) (v : Word) (s : State) :
    KeepsDecoding s (busWrite off v s) ∨ (busWrite off v s).stepReady = false := by
  rcases busWrite_cases off v s with
    ⟨-, h⟩ | ⟨-, h⟩ | ⟨-, h⟩ | ⟨-, h⟩ | ⟨-, h⟩ | h | ⟨x, h⟩ | ⟨x, h⟩ | h <;> rw [h]
  case inr.inr.inr.inr.inl =>
    exact (winWrite_keepsDecoding s v).imp_left fun k => ⟨k.params, k.h0, k.h1, k.res, k.eout, k.iter⟩
  all_goals exact .inl ⟨rfl, rfl, rfl, rfl, rfl, rfl⟩

theorem busRead_keepsDecoding (off : BitVec 12) (s : State) : KeepsDecoding s (busRead off s) := by
  obtain ⟨d, n, i, h⟩ := busRead_eq off s
  rw [h]; exact ⟨rfl, rfl, rfl, rfl, rfl, rfl⟩

/-- The engine's turn in anything but a decoder command. -/
theorem engineStep_keepsDecoding {s t : State} (h : engineStep s = .next t)
    (hi : ∀ i ∈ [Instr.decode, Instr.decInit, Instr.decStep], s.seq ≠ .busy (encode i)) :
    KeepsDecoding s t ∨ t.stepReady = false := by
  rcases (engineStep_next_iff s t).1 h with
    ⟨-, rfl⟩ | ⟨-, -, rfl⟩ | ⟨-, -, rfl⟩ | ⟨-, c, hs, ⟨-, rfl⟩ | ⟨i, hd, hx⟩⟩
  · exact .inl (.refl _)
  · exact .inl ⟨rfl, rfl, rfl, rfl, rfl, rfl⟩
  · exact .inl (.refl _)
  · exact .inl ⟨rfl, rfl, rfl, rfl, rfl, rfl⟩
  · obtain rfl := (decodeWord_eq_some_iff c i).1 hd
    exact exec_keepsDecoding hx fun hm => hi i hm hs

/-- R165, for every event that is not the engine's turn in a decoder command. -/
theorem handle_keepsDecoding {e : Event} {s t : State} (h : handle e s = .next t)
    (hi : e = .engine → ∀ i ∈ [Instr.decode, Instr.decInit, Instr.decStep], s.seq ≠ .busy (encode i)) :
    KeepsDecoding s t ∨ t.stepReady = false := by
  rcases (handle_next_iff e s t).1 h with
    ⟨he, hx⟩ | ⟨-, off, -, rfl⟩ | ⟨-, off, v, -, rfl⟩ | ⟨-, rfl⟩ | ⟨-, rfl⟩
  · exact engineStep_keepsDecoding hx (hi he)
  · exact .inl (busRead_keepsDecoding off s)
  · exact busWrite_keepsDecoding off v s
  · exact .inr rfl
  · split
    · exact .inr rfl
    · exact .inl (.refl s)

/-- Settles O51: the decoder commands by what `exec` makes of the vector, every other event by what it leaves. -/
theorem preparedStateKeepsItsInputSyndrome : Obligations.PreparedStateKeepsItsInputSyndrome := by
  unfold Obligations.PreparedStateKeepsItsInputSyndrome
  intro s t hI h
  have hw : s.popped.MemOk := hI.memWf
  have runs {i : Instr} (he : EngineTurn s) (hs : s.seq = .busy (encode i)) : exec i s.popped = .next t :=
    (step_eq_exec he (hI.rst_of_busy hs) hs (decodeWord_encode i)).symm.trans h
  refine ⟨fun he hs hk => ?_, fun he hs hr => steps_of_exec (s := s.popped) hw hr (runs he hs), fun _ ht hne => ?_⟩
  · rcases hs with hs | hs
    · have started := starts_of_exec hw (.inl rfl) (runs he hs) hk
      simpa [hs, encode_inj] using started
    · have started := starts_of_exec hw (.inr rfl) (runs he hs) hk
      simpa [hs] using started
  · rw [step_eq_handle] at h
    have other : s.nextInput = .engine →
        ∀ i ∈ [Instr.decode, Instr.decInit, Instr.decStep], s.popped.seq ≠ .busy (encode i) :=
      fun he i hi hs => hne ⟨(engineTurn_iff s).2 he, i, hi, hs⟩
    rcases handle_keepsDecoding h other with keeps | ended
    · exact ⟨keeps.decoderInput, keeps.h0, keeps.h1, keeps.iter⟩
    · simp [ended] at ht

end Sys2Proof.Machine
end

section
/-! SUPPORT. The counters and the two measures of a residual (R151, R152): a counter as a count of shifts and of adjacent checks,
the maximum counter, the weight, and both of a zero residual. -/

namespace Sys2Proof.Machine

/-! ### A counter as a count -/

/-- The counter of a position in block 0 (R16, R151). -/
theorem upcAt_of_lt {r j : Nat} (h0 h1 : List Nat) (s : List Bool) (hj : j < r) :
    upcAt r h0 h1 s j = (h0.filter fun p => bit s ((j + p) % r)).length := by
  simp [upcAt, blockSet, loc, blk, hj, List.countP_eq_length_filter]

/-- The counter of a position in block 1 (R16, R151). -/
theorem upcAt_of_le {r j : Nat} (h0 h1 : List Nat) (s : List Bool) (hj : r ≤ j) :
    upcAt r h0 h1 s j = (h1.filter fun p => bit s ((j - r + p) % r)).length := by
  simp [upcAt, blockSet, loc, blk, Nat.not_lt.2 hj, List.countP_eq_length_filter]

/-- `p ↦ (j + p) mod r` takes the members of a support to the checks adjacent to j, so a count over either is the same. -/
theorem length_filter_shift_eq_adjacent {r j : Nat} {h : List Nat} (s : List Bool) (hj : j < r) (hh : h.Nodup)
    (hlt : ∀ p ∈ h, p < r) : (h.filter fun p => bit s ((j + p) % r)).length =
      ((List.range r).filter fun c => adjacent r h j c && bit s c).length := by
  have below (p : Nat) : (j + p) % r < r := Nat.mod_lt _ (by omega)
  have back : ∀ p ∈ h, subMod r ((j + p) % r) j = p := fun p hp =>
    (subMod_eq_iff (below p) hj (hlt p hp)).2 (by rw [Nat.add_comm])
  have forth : ∀ c < r, (j + subMod r c j) % r = c := fun c hc => by
    rw [Nat.add_comm]; exact (subMod_eq_iff hc hj (subMod_lt (by omega) c j)).1 rfl
  have paired : ((h.filter fun p => bit s ((j + p) % r)).map fun p => (j + p) % r).Perm
      ((List.range r).filter fun c => adjacent r h j c && bit s c) := by
    refine (List.perm_ext_iff_of_nodup (List.Nodup.map_on ?_ (hh.filter _)) (List.nodup_range.filter _)).2 fun c => ?_
    · intro x hx y hy e
      rw [← back x (List.mem_filter.1 hx).1, e, back y (List.mem_filter.1 hy).1]
    · simp only [List.mem_map, List.mem_filter, List.mem_range, Bool.and_eq_true, adjacent, decide_eq_true_eq]
      constructor
      · rintro ⟨p, ⟨hp, hs⟩, rfl⟩
        exact ⟨below p, (back p hp).symm ▸ hp, hs⟩
      · rintro ⟨hc, hm, hs⟩
        exact ⟨subMod r c j, ⟨hm, (forth c hc).symm ▸ hs⟩, forth c hc⟩
  simpa using paired.length_eq

/-- Settles O32: position j lies in one block, at `loc(j)`, and the shifts of its support are its adjacent checks. -/
theorem countersCountUnsatisfiedAdjacentChecks : Obligations.CountersCountUnsatisfiedAdjacentChecks := by
  unfold Obligations.CountersCountUnsatisfiedAdjacentChecks
  intro r h0 h1 s j nodup0 nodup1 lt0 lt1 _ hj
  rw [getD_upcOf h0 h1 s hj]
  refine ⟨length_upcOf .., fun hlt => ?_, fun hle => ?_⟩
  · rw [upcAt_of_lt h0 h1 s hlt]
    exact ⟨rfl, length_filter_shift_eq_adjacent s hlt nodup0 lt0, List.length_filter_le ..⟩
  · have hlt : j - r < r := by omega
    rw [upcAt_of_le h0 h1 s hle]
    exact ⟨rfl, length_filter_shift_eq_adjacent s hlt nodup1 lt1, List.length_filter_le ..⟩

/-! ### The maximum counter and the weight -/

theorem le_maxCounter {u : List Nat} {x : Nat} (hx : x ∈ u) : x ≤ maxCounter u := by
  induction u with
  | nil => cases hx
  | cons y u ih =>
    rcases List.mem_cons.1 hx with rfl | hx
    · exact Nat.le_max_left ..
    · exact (ih hx).trans (Nat.le_max_right ..)

theorem maxCounter_mem {u : List Nat} (hu : u ≠ []) : maxCounter u ∈ u := by
  induction u with
  | nil => exact absurd rfl hu
  | cons x u ih =>
    cases u with
    | nil => simp [maxCounter]
    | cons y u =>
      rcases Nat.le_total (maxCounter (y :: u)) x with h | h
      · exact List.mem_cons.2 (.inl (Nat.max_eq_left h))
      · have later : maxCounter (x :: y :: u) = maxCounter (y :: u) := Nat.max_eq_right h
        exact List.mem_cons.2 (.inr (later ▸ ih nofun))

/-- The maximum is a bound that is attained, or 0 of no counter. -/
theorem maxCounter_le {u : List Nat} {b : Nat} (h : ∀ x ∈ u, x ≤ b) : maxCounter u ≤ b := by
  by_cases hu : u = []
  · simp [hu, maxCounter]
  · exact h _ (maxCounter_mem hu)

@[simp] theorem maxCounter_replicate_zero (n : Nat) : maxCounter (List.replicate n 0) = 0 :=
  Nat.le_zero.1 (maxCounter_le fun _ hx => (List.eq_of_mem_replicate hx).le)

/-- The weight is the size of the support (R14). -/
theorem popcount_eq_length_supp (v : List Bool) : popcount v = (supp v).length := by
  rw [supp, ← List.countP_eq_length_filter, popcount]
  nth_rw 1 [← bits_bit v]
  simp [bits, List.count, List.countP_map, Function.comp_def]

theorem bit_of_isZero {v : List Bool} (hz : isZero v = true) (i : Nat) : bit v i = false :=
  (isZero_iff_bit v).1 hz i

theorem popcount_of_isZero {v : List Bool} (hz : isZero v = true) : popcount v = 0 := by
  rw [(isZero_iff v).1 hz, popcount_zeroV]

/-- A zero residual leaves every counter 0 (R152). -/
theorem counters_of_isZero {s : State} (hz : isZero s.mem.res = true) :
    s.counters = List.replicate (2 * s.params.r) 0 := by
  have zero (j : Nat) : upcAt s.params.r s.key0 s.key1 s.mem.res j = 0 := by
    simp [upcAt, bit_of_isZero hz]
  simp [State.counters, upcOf, List.eq_replicate_iff, zero]

/-- Settles O33: the counters are 2r > 0 many, each at most the number of key entries. -/
theorem maximumCounterAndWeight : Obligations.MaximumCounterAndWeight := by
  unfold Obligations.MaximumCounterAndWeight
  intro s hI
  obtain ⟨-, -, -, -, lenRes, -⟩ := (Memory.wf_iff _ _).1 hI.memWf
  obtain ⟨hr, -⟩ := (legalParams_iff ..).1 s.params.legal
  have lenU := length_counters s
  have getD_eq {j : Nat} (hj : j < 2 * s.params.r) : s.counters.getD j 0 = s.counters[j] :=
    List.getD_eq_getElem _ _ (by omega)
  have nonempty : s.counters ≠ [] := List.ne_nil_of_length_pos (by have := hr.pos; omega)
  have weight : popcount s.mem.res = ((List.range s.params.r).filter (bit s.mem.res)).length := by
    rw [popcount_eq_length_supp, supp, lenRes]
  refine ⟨fun j hj => ?_, ?_, maxCounter_le (counters_le hI.memWf), weight, lenRes ▸ popcount_le_length _,
    fun hz => ⟨fun j _ => ?_, ?_⟩⟩
  · rw [getD_eq hj]
    exact le_maxCounter (List.getElem_mem _)
  · obtain ⟨j, hj, attained⟩ := List.mem_iff_getElem.1 (maxCounter_mem nonempty)
    exact ⟨j, lenU ▸ hj, (getD_eq (lenU ▸ hj)).trans attained⟩
  · rw [counters_of_isZero hz]; simp
  · rw [counters_of_isZero hz, maxCounter_replicate_zero]

end Sys2Proof.Machine
end

section
/-! SUPPORT. Flips and iterations for every choice of the function parameters (R153 to R160, R170): what a flip does to a decoder
state, an equation for each form of the iteration, what it records, and the fixed point at a zero residual. -/

namespace Sys2Proof.Machine

/-! ### Flips -/

/-- XOR with the same vector twice is nothing (R14). -/
theorem xorV_xorV_cancel {u v : List Bool} (h : v.length = u.length) : xorV (xorV u v) v = u := by
  rw [xorV_assoc rfl h h, xorV_self, xorV_zeroV h.symm]

theorem xorV_eq_left_iff {u v : List Bool} (h : v.length = u.length) : xorV u v = u ↔ v = zeroV u.length := by
  constructor
  · intro e
    rw [← xorV_self u]
    nth_rw 1 [← e]
    rw [xorV_comm u v, xorV_xorV_cancel h.symm]
  · rintro rfl
    exact xorV_zeroV rfl

/-- RES is the residual of `s0` and EOUT exactly when `s0` is the vector the decoder state keeps (R155, R165). -/
theorem res_eq_iff_decoderInput {s : State} (hw : s.MemOk) {s0 : List Bool} (h0 : s0.length = s.params.r) :
    s.mem.res = xorV s0 (syndromeOf s.params.r s.key0 s.key1 s.mem.eout) ↔ s.decoderInput = s0 := by
  obtain ⟨-, -, -, -, hr, -⟩ := (Memory.wf_iff _ _).1 hw
  constructor
  · intro h
    rw [State.decoderInput, h, xorV_xorV_cancel (by simp [h0])]
  · rintro rfl
    exact (xorV_xorV_cancel (by simp [hr])).symm

/-- The empty flip (R155). -/
theorem flip_zeroV {s : State} (hw : s.MemOk) : Machine.flip (zeroV (2 * s.params.r)) s = s := by
  obtain ⟨-, -, -, -, hr, ho, -⟩ := (Memory.wf_iff _ _).1 hw
  simp only [Machine.flip, half0_zeroV, half1_zeroV, cp_zeroV, xorV_zeroV hr, xorV_zeroV ho]

/-- Flipping a set twice (R155). -/
theorem flip_flip {s : State} (hw : s.MemOk) {F : List Bool} (hF : F.length = 2 * s.params.r) :
    Machine.flip F (Machine.flip F s) = s := by
  obtain ⟨-, -, -, -, hr, ho, -⟩ := (Memory.wf_iff _ _).1 hw
  have eout : xorV (xorV s.mem.eout F) F = s.mem.eout := xorV_xorV_cancel (hF.trans ho.symm)
  have res : (Machine.flip F (Machine.flip F s)).mem.res = s.mem.res := by
    rw [flip_res (flip_wf hw hF), flip_res hw]
    exact xorV_xorV_cancel (by simp [hr])
  calc Machine.flip F (Machine.flip F s)
      = { s with mem.res := (Machine.flip F (Machine.flip F s)).mem.res
                 mem.eout := xorV (xorV s.mem.eout F) F } := rfl
    _ = s := by rw [res, eout]

/-- Only the empty flip leaves EOUT, and it leaves RES too. -/
theorem flip_fixes_iff {s : State} (hw : s.MemOk) {F : List Bool} (hF : F.length = 2 * s.params.r) :
    ((Machine.flip F s).mem.res = s.mem.res ∧ (Machine.flip F s).mem.eout = s.mem.eout) ↔
      F = zeroV (2 * s.params.r) := by
  obtain ⟨-, -, -, -, -, ho, -⟩ := (Memory.wf_iff _ _).1 hw
  constructor
  · rintro ⟨-, he⟩
    exact ho ▸ (xorV_eq_left_iff (hF.trans ho.symm)).1 he
  · rintro rfl
    rw [flip_zeroV hw]; exact ⟨rfl, rfl⟩

/-- Settles O49: a flip keeps `RES ⊕ Syn(h0, h1, EOUT)`, which names the residual. -/
theorem flipIsTheRecomputedResidual : Obligations.FlipIsTheRecomputedResidual := by
  unfold Obligations.FlipIsTheRecomputedResidual
  intro s F s0 hI hF h0 hres
  refine ⟨(res_eq_iff_decoderInput (flip_wf hI.memWf hF) h0).2 ?_, flip_zeroV hI.memWf, flip_flip hI.memWf hF⟩
  rw [flip_decoderInput hI.memWf hF]
  exact (res_eq_iff_decoderInput hI.memWf h0).1 hres

/-! ### The forms of an iteration -/

/-- An iteration after the first has the main pass alone (R160). -/
theorem iteration_of_ne_one (A : Algo) {k : Word} (hk : k ≠ 1#32) (s : State) : iteration A k s =
    record s.counters (threshold A k s) (maxCounter s.counters) (popcount s.mem.res)
      (Machine.flip (flipSet s.params.r s.counters (threshold A k s)) s) := by
  rw [iteration, if_neg hk]

/-- An iteration moves RES, EOUT, the masks, UPC and the LAST registers, and nothing else (R160). -/
theorem iteration_frame (A : Algo) (k : Word) (s : State) : iteration A k s =
    { s with mem := { s.mem with res := (iteration A k s).mem.res, eout := (iteration A k s).mem.eout,
                                 black := (iteration A k s).mem.black, gray := (iteration A k s).mem.gray,
                                 upc := s.counters },
             lastTau := (iteration A k s).lastTau, lastMaxUpc := (iteration A k s).lastMaxUpc,
             lastSynW := (iteration A k s).lastSynW } := by
  obtain ⟨upc, -⟩ := iteration_records A k s
  obtain ⟨iter, success, ready⟩ := iteration_flags A k s
  have outside := iteration_outside A k s
  generalize iteration A k s = t at *
  rw [← upc]
  obtain ⟨_, ⟨⟩⟩ := s
  obtain ⟨_, ⟨⟩⟩ := t
  cases outside
  simp_all

/-- What an iteration records, as numbers: the counters and the weight fit in a word (R8, R159). -/
theorem iteration_records_toNat (A : Algo) (k : Word) {s : State} (hw : s.MemOk) :
    (iteration A k s).lastTau.toNat = min (threshold A k s) (2 ^ 32 - 1) ∧
    (iteration A k s).lastMaxUpc.toNat = maxCounter s.counters ∧
    (iteration A k s).lastSynW.toNat = popcount s.mem.res := by
  obtain ⟨-, tau, maxUpc, synW⟩ := iteration_records A k s
  obtain ⟨-, hr, -, hwr, -⟩ := (legalParams_iff ..).1 s.params.legal
  obtain ⟨-, -, -, -, lenRes, -⟩ := (Memory.wf_iff _ _).1 hw
  have maxLe : maxCounter s.counters ≤ s.params.w := maxCounter_le (counters_le hw)
  have weightLe := popcount_le_length s.mem.res
  rw [tau, maxUpc, synW, toNat_sat32, BitVec.toNat_ofNat, BitVec.toNat_ofNat]
  exact ⟨rfl, Nat.mod_eq_of_lt (by omega), Nat.mod_eq_of_lt (by omega)⟩

/-- Settles O46: the one pass of a later iteration, field by field. -/
theorem laterIterationsFlipAboveThreshold : Obligations.LaterIterationsFlipAboveThreshold := by
  unfold Obligations.LaterIterationsFlipAboveThreshold
  rintro A k s t u F τ hI hk rfl rfl rfl rfl
  obtain ⟨tau, maxUpc, synW⟩ := iteration_records_toNat A k hI.memWf
  rw [iteration_of_ne_one A hk] at tau maxUpc synW ⊢
  exact ⟨rfl, flip_res hI.memWf _, rfl, rfl, rfl, tau, maxUpc, synW, rfl⟩

section
variable {A : Algo} {s : State} {u : List Nat} {τ : Nat} {F B G : List Bool} (hu : u = s.counters)
  (hτ : τ = A.tau 1#32 (popcount s.mem.res) (maxCounter u) s.keyClass) (hF : F = flipSet s.params.r u τ)
  (hB : B = bits (2 * s.params.r) (A.masks u τ s.keyClass).1) (hG : G = bits (2 * s.params.r) (A.masks u τ s.keyClass).2)
include hu hτ hF hB hG

/-- Iteration 1 in OVERRIDE mode: the masks modify the one flip (R157). -/
theorem iteration_one_of_override (hA : A.mode = .override) : iteration A 1#32 s =
    record u τ (maxCounter u) (popcount s.mem.res)
      (Machine.flip (bits (2 * s.params.r) (A.combine F B G)) (setMasks B G s)) := by
  subst hu hτ hF hB hG
  simp only [iteration, firstFlips, hA, if_pos]; rfl

/-- Iteration 1 in PASSES mode: two mask passes follow the main pass, black before gray (R158). -/
theorem iteration_one_of_passes (hA : A.mode = .passes) : iteration A 1#32 s =
    record u τ (maxCounter u) (popcount s.mem.res)
      (maskPass A G (maskPass A B (Machine.flip F (setMasks B G s)))) := by
  subst hu hτ hF hB hG
  simp only [iteration, firstFlips, hA, if_pos]; rfl

end

/-- Settles O47: iteration 1 in OVERRIDE mode, field by field. -/
theorem firstIterationOverridesTheFlipSet : Obligations.FirstIterationOverridesTheFlipSet := by
  unfold Obligations.FirstIterationOverridesTheFlipSet
  rintro A s t u F B G F1 τ hI hA rfl rfl rfl rfl hB hG rfl
  obtain ⟨tau, maxUpc, synW⟩ := iteration_records_toNat A 1#32 hI.memWf
  have frame := iteration_frame A 1#32 s
  rw [iteration_one_of_override rfl rfl rfl hB hG hA] at tau maxUpc synW frame ⊢
  have masked : (setMasks B G s).MemOk := setMasks_wf hI.memWf (by simp [hB]) (by simp [hG])
  exact ⟨rfl, flip_res masked _, rfl, rfl, rfl, tau, maxUpc, synW, frame⟩

/-- A mask pass flips the positions of its mask whose counters, of the residual it finds, exceed MASK_TAU (R158). -/
theorem maskPass_of_res {A : Algo} {s : State} {r : Nat} {M : Nat → Bool} {res F : List Bool} {u : List Nat} {tm : Nat}
    (hres : s.mem.res = res) (hr : s.params.r = r) (hu : u = upcOf r s.key0 s.key1 res)
    (htm : tm = A.maskTau (popcount res) (maxCounter u) s.keyClass)
    (hF : F = bits (2 * r) fun j => M j && decide (tm < u.getD j 0)) :
    maskPass A (bits (2 * r) M) s = Machine.flip F s := by
  subst hr hres hu htm hF
  refine congrArg (Machine.flip · s) (List.map_congr_left fun j hj => ?_)
  rw [bit_bits_of_lt M (List.mem_range.1 hj)]; rfl

/-- Settles O48: the three flips of iteration 1 in PASSES mode, each from the residual of the one before. -/
theorem firstIterationRunsBlackThenGrayPass : Obligations.FirstIterationRunsBlackThenGrayPass := by
  unfold Obligations.FirstIterationRunsBlackThenGrayPass
  rintro A s t u u1 u2 F F1 F2 res1 res2 B G τ tm1 tm2 hI hA rfl rfl rfl hF hBG hres1 hu1 htm1 hF1 hres2 hu2 htm2 hF2
  obtain ⟨tau, maxUpc, synW⟩ := iteration_records_toNat A 1#32 hI.memWf
  have frame := iteration_frame A 1#32 s
  have hB : B = _ := congrArg Prod.fst hBG
  have hG : G = _ := congrArg Prod.snd hBG
  have masked : (setMasks (bits (2 * s.params.r) B) (bits (2 * s.params.r) G) s).MemOk :=
    setMasks_wf hI.memWf (by simp) (by simp)
  have mainOk := flip_wf (F := F) masked (by simp [hF])
  have mainRes := (flip_res masked F).trans hres1.symm
  have blackOk := flip_wf (F := F1) mainOk (by simp [hF1])
  have blackRes := (flip_res mainOk F1).trans ((congrArg (xorV · _) mainRes).trans hres2.symm)
  have grayRes := (flip_res blackOk F2).trans (congrArg (xorV · _) blackRes)
  rw [iteration_one_of_passes rfl rfl hF (congrArg (bits _) hB) (congrArg (bits _) hG) hA,
    maskPass_of_res (r := s.params.r) mainRes rfl hu1 htm1 hF1,
    maskPass_of_res (r := s.params.r) blackRes rfl hu2 htm2 hF2] at tau maxUpc synW frame ⊢
  exact ⟨rfl, grayRes, rfl, rfl, rfl, tau, maxUpc, synW, frame⟩

/-! ### The zero residual -/

theorem bits_eq_zeroV_iff (n : Nat) (f : Nat → Bool) : bits n f = zeroV n ↔ ∀ j, j < n → f j = false := by
  simp [bits, zeroV, List.eq_replicate_iff]

@[simp] theorem flipSet_replicate_zero (r n τ : Nat) : flipSet r (List.replicate n 0) τ = zeroV (2 * r) := by
  rw [flipSet, bits_eq_zeroV_iff]
  simp

@[simp] theorem maskedFlipSet_replicate_zero (r n tm : Nat) (M : List Bool) :
    maskedFlipSet r M (List.replicate n 0) tm = zeroV (2 * r) := by
  rw [maskedFlipSet, bits_eq_zeroV_iff]
  simp

/-- A mask pass over a zero residual flips nothing (R170). -/
theorem maskPass_of_isZero (A : Algo) (M : List Bool) {s : State} (hw : s.MemOk) (hz : isZero s.mem.res = true) :
    maskPass A M s = s := by
  rw [maskPass, counters_of_isZero hz, maskedFlipSet_replicate_zero, flip_zeroV hw]

/-- Settles O50: every flip set drawn from counters that are all 0 is empty, so only COMBINE can flip. -/
theorem zeroResidualIsAFixedPoint : Obligations.ZeroResidualIsAFixedPoint := by
  unfold Obligations.ZeroResidualIsAFixedPoint
  rintro A k s t B G hI hz rfl hB hG
  have hu := counters_of_isZero hz
  have hτ : A.tau 1#32 0 0 s.keyClass = A.tau 1#32 (popcount s.mem.res)
      (maxCounter (List.replicate (2 * s.params.r) 0)) s.keyClass := by
    rw [popcount_of_isZero hz, maxCounter_replicate_zero]
  have hF := (flipSet_replicate_zero s.params.r (2 * s.params.r) (A.tau 1#32 0 0 s.keyClass)).symm
  have masked : (setMasks B G s).MemOk := setMasks_wf hI.memWf (by simp [hB]) (by simp [hG])
  refine ⟨fun j τ => by simp [hu], fun M => maskPass_of_isZero A M hI.memWf hz, fun h => ?_, ?_⟩
  · by_cases hk : k = 1#32
    · have hA : A.mode = .passes := h.resolve_left (not_not.2 hk)
      have empty : Machine.flip (zeroV (2 * s.params.r)) (setMasks B G s) = setMasks B G s := flip_zeroV masked
      rw [hk, iteration_one_of_passes hu.symm hτ hF hB hG hA, empty, maskPass_of_isZero A B masked hz,
        maskPass_of_isZero A G masked hz]
      exact ⟨rfl, rfl⟩
    · rw [iteration_of_ne_one A hk, hu, flipSet_replicate_zero, flip_zeroV hI.memWf]
      exact ⟨rfl, rfl⟩
  · rintro rfl hA
    rw [iteration_one_of_override hu.symm hτ hF hB hG hA, ← bits_eq_zeroV_iff]
    exact flip_fixes_iff masked (length_bits ..)

end Sys2Proof.Machine
end

section
/-! SUPPORT. The decoder commands (R161 to R164, R167 to R169, R172): how each completes, the iterations DECODE runs, and what
SUCCESS says. -/

namespace Sys2Proof.Machine

/-! ### What the three effects share -/

/-- A command whose check passes completes with its effect, and writes none of the host's side (R102, R113). -/
theorem exec_of_check_passed {i : Instr} {s : State} (hc : checkOf i s = none) :
    exec i s = .next (completeOk (effectOf i s)) ∧ Completes s (completeOk (effectOf i s)) .none 0#32 ∧
    KeepsHostSide s (completeOk (effectOf i s)) :=
  ⟨exec_of_check_none hc, completeOk_effectOf_completes i s, (effectOf_host i s).trans (completeOk_host _)⟩

section
variable {i : Instr} (hi : i ∈ [Instr.decode, Instr.decInit, Instr.decStep]) (s : State)
include hi

/-- A decoder command's effect writes the decoder's state alone (R161 to R164). -/
theorem effectOf_outside : KeepsOutside s (effectOf i s) := by
  cases i
  case decode => exact ((decInit_outside s).trans (decodeLoop_outside ..)).trans (setStepReady_outside ..)
  case decInit => exact ((decInit_outside s).trans (setSuccess_outside ..)).trans (setStepReady_outside ..)
  case decStep => exact ((iteration_outside ..).trans (setIter_outside ..)).trans (setSuccess_outside ..)
  all_goals simp at hi

/-- A decoder command's effect judges its residual (R163). -/
theorem effectOf_success : (effectOf i s).success = isZero (effectOf i s).mem.res := by
  cases i
  case decode => exact decodeLoop_success ..
  case decInit => rfl
  case decStep => rfl
  all_goals simp at hi

end

theorem exec_success_of_decoder {i : Instr} (hi : i ∈ [Instr.decode, Instr.decInit, Instr.decStep]) {s t : State}
    (hx : exec i s = .next t) (he : t.err = .none) : t.success = isZero t.mem.res := by
  obtain ⟨-, rfl⟩ := eq_completeOk_of_exec hx (.inr he)
  exact effectOf_success hi s

/-- `v == 0`, position by position (R14). -/
theorem isZero_iff_getD (v : List Bool) : isZero v = true ↔ ∀ c, c < v.length → v.getD c true = false := by
  simp only [isZero, List.all_eq_true, List.forall_mem_iff_forall_getElem, Bool.not_eq_true']
  exact forall₂_congr fun c hc => by rw [List.getD_eq_getElem _ _ hc]

/-- Settles O45: each of the three commands ends by judging its residual. -/
theorem successSaysWhetherResIsZero : Obligations.SuccessSaysWhetherResIsZero := by
  unfold Obligations.SuccessSaysWhetherResIsZero
  intro i s t hi hx he
  rw [exec_success_of_decoder hi hx he, isZero_iff_getD]

/-! ### DEC_INIT and DEC_STEP -/

/-- Settles O42: on a valid key DEC_INIT's effect is the decoder's initial state, judged. -/
theorem decInitPreparesTheDecoder : Obligations.DecInitPreparesTheDecoder := by
  unfold Obligations.DecInitPreparesTheDecoder
  intro s hk
  obtain ⟨hx, completes, host⟩ := exec_of_check_passed (i := .decInit) hk
  exact ⟨_, hx, completes, host, rfl, rfl, rfl, rfl, rfl, rfl, rfl, rfl, rfl, rfl, rfl, rfl, rfl⟩

/-- Settles O37: STEP_READY is all that DEC_STEP's check asks. -/
theorem unpreparedStepIsNotReady : Obligations.UnpreparedStepIsNotReady := by
  unfold Obligations.UnpreparedStepIsNotReady
  intro s hs
  have raised : checkOf .decStep s = some ⟨.notReady, 0#32⟩ := by simp [checkOf, readyCheck, hs]
  exact exec_onlyCompletes_of_check_some raised

/-- The number of the next iteration, `sat32(ITER + 1)` (R164). -/
theorem toNat_nextIter (s : State) : (nextIter s).toNat = min (s.iter.toNat + 1) (2 ^ 32 - 1) := toNat_sat32 _

theorem nextIter_of_saturated {s : State} (h : s.iter = 0xFFFFFFFF#32) : nextIter s = 0xFFFFFFFF#32 := by
  rw [nextIter, h]; rfl

/-- Only the first step of a sequence runs iteration 1. -/
theorem nextIter_ne_one {s : State} (h : s.iter ≠ 0#32) : nextIter s ≠ 1#32 := by
  intro e
  have number := toNat_nextIter s
  have nonzero : s.iter.toNat ≠ 0 := fun hz => h (BitVec.eq_of_toNat_eq hz)
  rw [e, show (1#32).toNat = 1 from rfl] at number
  omega

/-- An iteration after the first leaves the masks (R160). -/
theorem iteration_masks_of_ne_one (A : Algo) {k : Word} (hk : k ≠ 1#32) (s : State) :
    (iteration A k s).mem.black = s.mem.black ∧ (iteration A k s).mem.gray = s.mem.gray := by
  rw [iteration_of_ne_one A hk]; exact ⟨rfl, rfl⟩

/-- Settles O44: in a prepared state DEC_STEP's effect is one iteration, judged. -/
theorem decStepRunsOneIteration : Obligations.DecStepRunsOneIteration := by
  unfold Obligations.DecStepRunsOneIteration
  intro s hs
  obtain ⟨hx, completes, host⟩ := exec_of_check_passed (checkOf_decStep_of_ready hs)
  have outside := effectOf_outside (i := .decStep) (by simp) s
  have ready : (effectOf .decStep s).stepReady = true := by simp [effectOf_stepReady, hs]
  have masks (h : s.iter ≠ 0#32) := iteration_masks_of_ne_one s.params.fns (nextIter_ne_one h) s
  exact ⟨_, nextIter s, hx, toNat_nextIter s, rfl, rfl, rfl, rfl, rfl, nextIter_of_saturated, masks,
    effectOf_success (by simp) s, ready, completes, host, outside.wbusy, outside.syn⟩

/-! ### DECODE -/

/-- The state after `Iteration(1), …, Iteration(m)`, ITER left alone. -/
def iterateFrom (A : Algo) : Nat → State → State
  | 0, s => s
  | m + 1, s => iteration A (BitVec.ofNat 32 (m + 1)) (iterateFrom A m s)

/-- The rounds of DecodeLoop are these iterations, counted in ITER (R162). -/
theorem roundsFrom_eq_iterateFrom (A : Algo) (m : Nat) {s : State} (h : s.iter = 0#32) :
    roundsFrom A m s = (iterateFrom A m s).setIter (BitVec.ofNat 32 m) := by
  induction m with
  | zero => rw [show BitVec.ofNat 32 0 = s.iter from h.symm]; rfl
  | succ m ih =>
    have number : (roundsFrom A m s).iter + 1#32 = BitVec.ofNat 32 (m + 1) := by
      rw [roundsFrom_iter A m h, BitVec.ofNat_add]
    rw [roundsFrom, decodeRound, number, ih, iteration_setIter]; rfl

/-- What DECODE's effect is: the iterations up to the first zero residual, or `nbIter` of them (R162, R167). -/
theorem effectOf_decode_eq (s : State) : ∃ n, n ≤ s.params.nbIter ∧
    (∀ m, m < n → isZero (iterateFrom s.params.fns m (decInit s)).mem.res = false) ∧
    (isZero (iterateFrom s.params.fns n (decInit s)).mem.res = true ∨ n = s.params.nbIter) ∧
    effectOf .decode s = (((iterateFrom s.params.fns n (decInit s)).setIter (BitVec.ofNat 32 n)).setSuccess
      (isZero (iterateFrom s.params.fns n (decInit s)).mem.res)).setStepReady true := by
  obtain ⟨n, hn, before, last, loop⟩ := decodeLoop_eq s.params.fns s.params.nbIter (decInit s)
  have rounds (m : Nat) := roundsFrom_eq_iterateFrom s.params.fns m (s := decInit s) rfl
  simp only [rounds, setIter_keeps] at before last loop
  exact ⟨n, hn, before, last, congrArg (State.setStepReady · true) loop⟩

/-- Settles O43: on a valid key DECODE's effect is its last iteration, counted and judged. -/
theorem decodeRunsToZeroOrTheBound : Obligations.DecodeRunsToZeroOrTheBound := by
  unfold Obligations.DecodeRunsToZeroOrTheBound
  intro s hk
  obtain ⟨hx, completes, host⟩ := exec_of_check_passed (i := .decode) hk
  have outside := effectOf_outside (i := .decode) (by simp) s
  obtain ⟨n, hn, before, last, effect⟩ := effectOf_decode_eq s
  obtain ⟨-, -, -, -, -, -, -, hbound⟩ := (legalParams_iff ..).1 s.params.legal
  have count : (BitVec.ofNat 32 n).toNat = n := by rw [BitVec.toNat_ofNat]; omega
  rw [effect] at hx completes host outside
  exact ⟨_, n, fun m => iterateFrom s.params.fns m (decInit s), hx, hn, rfl, rfl, rfl, rfl, rfl, rfl, rfl, rfl, rfl,
    rfl, rfl, rfl, fun m hm => ⟨before m hm, rfl⟩, last, rfl, rfl, rfl, rfl, rfl, rfl, rfl, rfl, count, rfl, rfl,
    completes, host, outside.wbusy, outside.syn⟩

theorem isZero_iff_of_xorV_eq {u v w : List Bool} (hl : v.length = u.length) (h : xorV u v = w) :
    isZero u = true ↔ v = w := by
  rw [isZero_iff, ← h, eq_comm (a := v), xorV_comm u v, xorV_eq_left_iff hl.symm, hl]

/-- Settles O52: SUCCESS judges RES, and `RES ⊕ Syn(h0, h1, EOUT)` is SYN. -/
theorem successMeansTheFlipsExplainTheSyndrome : Obligations.SuccessMeansTheFlipsExplainTheSyndrome := by
  unfold Obligations.SuccessMeansTheFlipsExplainTheSyndrome
  intro s t hw hx he
  obtain ⟨-, -, input, -⟩ := starts_of_exec hw (.inl rfl) hx (.inr he)
  obtain ⟨-, -, -, -, lenRes, -⟩ := (Memory.wf_iff _ _).1 (exec_wf hx hw)
  have syn : t.mem.syn = s.mem.syn := by
    obtain ⟨-, rfl⟩ := eq_completeOk_of_exec hx (.inr he)
    exact (effectOf_outside (i := .decode) (by simp) s).syn
  rw [exec_success_of_decoder (i := .decode) (by simp) hx he, syn]
  exact isZero_iff_of_xorV_eq (by simp [lenRes]) input

end Sys2Proof.Machine
end

section
/-! SUPPORT. What a decode reads (R171): two states that agree on the build, the key, KEYCLASS and the decoder's state agree on it
after every operation of the decoder. -/

namespace Sys2Proof.Machine

/-- The two states have one build, key and KEYCLASS, and one decoder state with its records. -/
structure SameDecoding (s s' : State) : Prop where
  params : s.params = s'.params
  h0 : s.mem.h0 = s'.mem.h0
  h1 : s.mem.h1 = s'.mem.h1
  keyClass : s.keyClass = s'.keyClass
  res : s.mem.res = s'.mem.res
  eout : s.mem.eout = s'.mem.eout
  black : s.mem.black = s'.mem.black
  gray : s.mem.gray = s'.mem.gray
  upc : s.mem.upc = s'.mem.upc
  iter : s.iter = s'.iter
  lastTau : s.lastTau = s'.lastTau
  lastMaxUpc : s.lastMaxUpc = s'.lastMaxUpc
  lastSynW : s.lastSynW = s'.lastSynW

/-- What every operation of the decoder reads of the state it is given. -/
theorem SameDecoding.reads {s s' : State} (h : SameDecoding s s') : s.params = s'.params ∧ s.keyClass = s'.keyClass ∧
    s.mem.res = s'.mem.res ∧ s.key0 = s'.key0 ∧ s.key1 = s'.key1 ∧ s.counters = s'.counters ∧ s.iter = s'.iter :=
  ⟨h.params, h.keyClass, h.res, (key_congr h.h0 h.h1).1, (key_congr h.h0 h.h1).2,
    counters_congr h.params h.h0 h.h1 h.res, h.iter⟩

section
variable {s s' : State} (h : SameDecoding s s')
include h

theorem SameDecoding.flip (F : List Bool) : SameDecoding (Machine.flip F s) (Machine.flip F s') := by
  obtain ⟨params, -, res, key0, key1, -⟩ := h.reads
  exact { h with
    res := by simp only [flip_writes, params, res, key0, key1]
    eout := by simp only [flip_writes, h.eout] }

theorem SameDecoding.setMasks (B G : List Bool) :
    SameDecoding (Machine.setMasks B G s) (Machine.setMasks B G s') := { h with black := rfl, gray := rfl }

theorem SameDecoding.record (u : List Nat) (τ m sw : Nat) :
    SameDecoding (Machine.record u τ m sw s) (Machine.record u τ m sw s') :=
  { h with upc := rfl, lastTau := rfl, lastMaxUpc := rfl, lastSynW := rfl }

theorem SameDecoding.setIter (k : Word) : SameDecoding (s.setIter k) (s'.setIter k) := { h with iter := rfl }

theorem SameDecoding.setSuccess (b b' : Bool) : SameDecoding (s.setSuccess b) (s'.setSuccess b') := { h with }

theorem SameDecoding.maskPass (A : Algo) (M : List Bool) :
    SameDecoding (Machine.maskPass A M s) (Machine.maskPass A M s') := by
  obtain ⟨params, keyClass, res, -, -, counters, -⟩ := h.reads
  simp only [Machine.maskPass, params, keyClass, res, counters]
  exact h.flip _

theorem SameDecoding.firstFlips (A : Algo) (u : List Nat) (τ : Nat) (F : List Bool) :
    SameDecoding (Machine.firstFlips A u τ F s) (Machine.firstFlips A u τ F s') := by
  obtain ⟨params, keyClass, -⟩ := h.reads
  simp only [Machine.firstFlips, params, keyClass]
  split
  · exact (h.setMasks _ _).flip _
  · exact ((((h.setMasks _ _).flip F).maskPass A _).maskPass A _)

theorem SameDecoding.iteration (A : Algo) (k : Word) :
    SameDecoding (Machine.iteration A k s) (Machine.iteration A k s') := by
  obtain ⟨params, keyClass, res, -, -, counters, -⟩ := h.reads
  simp only [Machine.iteration, threshold, params, keyClass, res, counters]
  split
  · exact (h.firstFlips ..).record ..
  · exact (h.flip _).record ..

theorem SameDecoding.decodeLoop (A : Algo) (n : Nat) :
    SameDecoding (Machine.decodeLoop A n s) (Machine.decodeLoop A n s') := by
  induction n generalizing s s' with
  | zero => exact h.setSuccess ..
  | succ n ih =>
    simp only [Machine.decodeLoop, decodeRound, h.res, h.iter]
    split
    · exact h.setSuccess ..
    · exact ih ((h.iteration ..).setIter _)

end

/-- DecInit writes the whole decoder state from SYN (R161). -/
theorem decInit_sameDecoding {s s' : State} (hp : s.params = s'.params) (h0 : s.mem.h0 = s'.mem.h0)
    (h1 : s.mem.h1 = s'.mem.h1) (hs : s.mem.syn = s'.mem.syn) (hc : s.keyClass = s'.keyClass) :
    SameDecoding (decInit s) (decInit s') := by
  constructor <;> simp [decInit, hp, h0, h1, hs, hc]

/-- Settles O53: both runs start from one decoder state, and DecodeLoop reads nothing else. -/
theorem decodeDependsOnKeySyndromeAndClassAlone : Obligations.DecodeDependsOnKeySyndromeAndClassAlone := by
  unfold Obligations.DecodeDependsOnKeySyndromeAndClassAlone
  intro s s' t t' hp h0 h1 hs hc hk hx hx'
  have hk' : KeyValid s' := (keyValid_congr hp.symm h0.symm h1.symm).2 hk
  obtain ⟨-, rfl⟩ := eq_completeOk_of_exec hx (.inl hk)
  obtain ⟨-, rfl⟩ := eq_completeOk_of_exec hx' (.inl hk')
  have same : SameDecoding (effectOf .decode s) (effectOf .decode s') := by
    have loop := (decInit_sameDecoding hp h0 h1 hs hc).decodeLoop s.params.fns s.params.nbIter
    rw [effectOf, effectOf, ← hp]
    exact { loop with }
  have success : (effectOf .decode s).success = (effectOf .decode s').success := by
    rw [effectOf_success (by simp), effectOf_success (by simp), same.res]
  have ready : (effectOf .decode s).stepReady = (effectOf .decode s').stepReady := by simp [effectOf_stepReady]
  have done := completeOk_effectOf_completes .decode s
  have done' := completeOk_effectOf_completes .decode s'
  have weight : (completeOk (effectOf .decode s)).resWeight = (completeOk (effectOf .decode s')).resWeight := by
    simp only [completeOk_writes, same.res]
  exact ⟨same.res, same.eout, same.black, same.gray, same.upc, same.iter, same.lastTau, same.lastMaxUpc, same.lastSynW,
    weight, success, ready, done.err.trans done'.err.symm, done.errInfo.trans done'.errInfo.symm⟩

end Sys2Proof.Machine
end

section
/-! SUPPORT. Errors and interrupts (R190 to R201): an error is its completion and no more, the pending bits are set by completions
alone, and the irq output reads off the registers. -/

namespace Sys2Proof.Machine

/-! ### Errors are precise -/

/-- Each of the five keyed commands raises what KeyCheck reports, whatever else it would check (R133, R194). -/
theorem checkOf_of_keyCheck_some {i : Instr} {s : State} {e : CmdError} (h : keyCheck s = some e)
    (hi : i ∈ [Instr.cprod0, Instr.cprod1, Instr.syndrome, Instr.decode, Instr.decInit]) : checkOf i s = some e := by
  cases i
  case cprod0 => exact h
  case cprod1 => exact h
  case syndrome => rw [checkOf, h, Option.some_or]
  case decode => exact h
  case decInit => exact h
  all_goals simp at hi

/-- Settles O35: KeyCheck's error is the one the command's check raises, and its code is INVALID_KEY. -/
theorem invalidKeyIsRejectedWithoutEffect : Obligations.InvalidKeyIsRejectedWithoutEffect := by
  unfold Obligations.InvalidKeyIsRejectedWithoutEffect
  intro s e i hk hi
  rw [← keyCheck_code hk]
  exact exec_onlyCompletes_of_check_some (checkOf_of_keyCheck_some hk hi)

/-- Settles O38: a command ends with its check's error and no effect, or with its effect and ERR and ERR_INFO 0. -/
theorem errorsArePrecise : Obligations.ErrorsArePrecise := by
  unfold Obligations.ErrorsArePrecise
  intro i s t h
  rcases (exec_next_iff ..).1 h with ⟨e, hc, rfl⟩ | ⟨-, rfl⟩
  · exact ⟨fun _ => raiseCmdError_onlyCompletes e s, fun hn => absurd hn (checkOf_code_ne_none hc)⟩
  · exact ⟨fun hn => absurd rfl hn, fun _ => rfl⟩

/-! ### What sets a pending bit -/

/-- `t` has neither DONE_IRQ nor ERR_IRQ set where `s` has it clear. -/
def SetsNoPendingBit (s t : State) : Prop :=
  (t.doneIrq = true → s.doneIrq = true) ∧ (t.errIrq = true → s.errIrq = true)

theorem setsNoPendingBit_of_eq {s t : State} (hd : t.doneIrq = s.doneIrq) (he : t.errIrq = s.errIrq) :
    SetsNoPendingBit s t := ⟨hd ▸ id, he ▸ id⟩

theorem enterReset_setsNoPendingBit (s : State) (level : Bool) : SetsNoPendingBit s (s.enterReset level) := ⟨nofun, nofun⟩

/-- An acknowledge only clears pending bits (R199). -/
theorem acknowledge_setsNoPendingBit (v : Word) (s : State) : SetsNoPendingBit s (acknowledge v s) := by
  simp +contextual [SetsNoPendingBit]

theorem busRead_setsNoPendingBit (off : BitVec 12) (s : State) : SetsNoPendingBit s (busRead off s) := by
  obtain ⟨-, hd, he, -⟩ := busRead_keepsCommand off s
  exact setsNoPendingBit_of_eq hd he

/-- The one write that reaches the pending bits is the acknowledge (R46, R78). -/
theorem busWrite_setsNoPendingBit (off : BitVec 12) (v : Word) (s : State) : SetsNoPendingBit s (busWrite off v s) := by
  rcases busWrite_cases off v s with
    ⟨-, h⟩ | ⟨-, h⟩ | ⟨-, h⟩ | ⟨-, h⟩ | ⟨-, h⟩ | h | ⟨x, h⟩ | ⟨x, h⟩ | h <;> rw [h]
  case inr.inr.inr.inr.inl =>
    obtain ⟨m, b, hw⟩ := winWrite_eq s v
    rw [hw]; exact setsNoPendingBit_of_eq rfl rfl
  case inr.inr.inr.inr.inr.inl => exact acknowledge_setsNoPendingBit v s
  all_goals exact setsNoPendingBit_of_eq rfl rfl

/-- `t` is the completion of the command `s` runs. -/
def CompletesRunning (s t : State) : Prop :=
  s.rst = false ∧ (∃ c, s.seq = .busy c) ∧ Completes s t t.err t.errInfo

/-- The engine's turn sets no pending bit unless it completes a command (R112, R196, R222). -/
theorem engineStep_pendingBits {s t : State} (h : engineStep s = .next t) :
    SetsNoPendingBit s t ∨ CompletesRunning s t := by
  rcases (engineStep_next_iff s t).1 h with
    ⟨-, rfl⟩ | ⟨-, -, rfl⟩ | ⟨-, -, rfl⟩ | ⟨hr, c, hs, ⟨-, rfl⟩ | ⟨i, -, hx⟩⟩
  · exact .inl (setsNoPendingBit_of_eq rfl rfl)
  · exact .inl (setsNoPendingBit_of_eq rfl rfl)
  · exact .inl (setsNoPendingBit_of_eq rfl rfl)
  · exact .inr ⟨hr, ⟨c, hs⟩, raiseCmdError_completes _ s⟩
  · exact .inr ⟨hr, ⟨c, hs⟩, exec_completes hx⟩

/-- R196, for every event. -/
theorem handle_pendingBits {e : Event} {s t : State} (h : handle e s = .next t) :
    SetsNoPendingBit s t ∨ (e = .engine ∧ CompletesRunning s t) := by
  rcases (handle_next_iff e s t).1 h with
    ⟨he, hx⟩ | ⟨-, off, -, rfl⟩ | ⟨-, off, v, -, rfl⟩ | ⟨-, rfl⟩ | ⟨-, rfl⟩
  · exact (engineStep_pendingBits hx).imp_right fun completes => ⟨he, completes⟩
  · exact .inl (busRead_setsNoPendingBit off s)
  · exact .inl (busWrite_setsNoPendingBit off v s)
  · exact .inl (enterReset_setsNoPendingBit s true)
  · split
    · exact .inl (enterReset_setsNoPendingBit s false)
    · exact .inl (setsNoPendingBit_of_eq rfl rfl)

/-- Settles O57: whatever word the engine runs completes, and no event but that completion sets a pending bit. -/
theorem pendingBitsAreSetOnlyByCompletion : Obligations.PendingBitsAreSetOnlyByCompletion := by
  unfold Obligations.PendingBitsAreSetOnlyByCompletion
  intro s t h
  refine ⟨fun c hr hs he => ?_, fun hset => ?_⟩
  · obtain ⟨t', ht', completes⟩ := runCommand_completes c s.popped
    obtain rfl : t' = t := by simpa [step_eq_runCommand he hr hs, ht'] using h
    exact ⟨completes.doneIrq, fun herr => by simp [completes.errIrq, herr]⟩
  · rw [step_eq_handle] at h
    rcases handle_pendingBits h with ⟨hd, he⟩ | ⟨turn, hr, hs, completes⟩
    · rcases hset with ⟨hs, ht⟩ | ⟨hs, ht⟩
      · exact absurd (hd ht) (by simp [hs])
      · exact absurd (he ht) (by simp [hs])
    · have raised : s.errIrq = false ∧ t.errIrq = true → t.err ≠ .none := fun ⟨hs, ht⟩ => by
        simpa [completes.errIrq, hs] using ht
      exact ⟨(engineTurn_iff s).2 turn, hr, hs, completes.seq, raised⟩

/-! ### The irq output -/

/-- Settles O18: bit 0 of CTRL is IRQ_EN, and bits 0 and 1 of IRQ_STATUS are the pending bits. -/
theorem irqFollowsItsBits : Obligations.IrqFollowsItsBits := by
  unfold Obligations.IrqFollowsItsBits
  refine ⟨fun s => ?_, fun p => rfl⟩
  rw [regRead_ctrl, regRead_irqStatus, ctrlWord_getLsbD, irqStatusWord_getLsbD, irqStatusWord_getLsbD]
  simp [State.irq]

end Sys2Proof.Machine
end

section
/-! SUPPORT. Reset and the INIT phase (R220 to R222): what one pending event leads to, the engine's turn in INIT and while `rst`
is asserted, and what the registers read right after a reset. -/

namespace Sys2Proof.Machine

/-! ### The engine's turn in INIT -/

/-- A step with an event pending handles it, in the state less that event. -/
theorem step_of_pending {s : State} {e : Event} {es : List Event} (h : s.inputs = e :: es) :
    step s = handle e { s with inputs := es } := by
  rw [step_eq_handle, nextInput_of_pending h, popped_of_pending h]

/-- A step with nothing pending is the engine's turn. -/
theorem step_of_none_pending {s : State} (h : s.inputs = []) : step s = engineStep s := by
  rw [step, nextEvent, h]

theorem engineStep_of_init {s : State} (hr : s.rst = false) (hs : s.seq = .init) :
    engineStep s = .next { s with seq := .idle } :=
  (engineStep_next_iff ..).2 (.inr (.inl ⟨hr, hs, rfl⟩))

/-- Settles O8: INIT is not IDLE, so BUSY is 1, and either form of the engine's turn is its one step in INIT. -/
theorem initPhaseEndsInIdle : Obligations.InitPhaseEndsInIdle := by
  unfold Obligations.InitPhaseEndsInIdle
  intro s hr hs
  obtain ⟨busyBit, -⟩ := statusWord_fields s
  refine ⟨?_, fun hi => ?_, fun es hi => ?_⟩
  · rw [busyBit, busy_eq_true_iff, hs]
    nofun
  · rw [step_of_none_pending hi, engineStep_of_init hr hs]
  · rw [step_of_pending hi]
    exact engineStep_of_init hr hs

/-! ### Asserting and releasing `rst` -/

/-- While `rst` is asserted the engine's turn changes nothing (R220). -/
theorem engineStep_of_held {s : State} (hr : s.rst = true) : engineStep s = .next s :=
  (engineStep_next_iff ..).2 (.inl ⟨hr, rfl⟩)

theorem handle_assertRst (s : State) : handle .assertRst s = .next (s.enterReset true) := rfl

theorem handle_releaseRst_of_held {s : State} (hr : s.rst = true) :
    handle .releaseRst s = .next (s.enterReset false) := by
  simp [handle, hr]

/-- Settles O9: both edges of `rst` enter the reset state of the build, and between them the engine is held. -/
theorem resetAbandonsWhateverRuns : Obligations.ResetAbandonsWhateverRuns := by
  unfold Obligations.ResetAbandonsWhateverRuns
  refine fun s es => ⟨fun hi => ?_, fun hr hi => ?_, fun hr hi => ?_⟩
  · rw [step_of_pending hi, handle_assertRst]
    rfl
  · rw [step_of_pending hi]
    exact engineStep_of_held hr
  · refine ⟨_, ?_, rfl, rfl, rfl⟩
    rw [step_of_pending hi]
    exact handle_releaseRst_of_held hr

/-! ### The reset table -/

/-- The first step of a build after reset ends the INIT phase (R222). -/
theorem step_resetFor (p : Params) : step (State.resetFor p) = .next { State.resetFor p with seq := .idle } := by
  rw [step_of_none_pending rfl, engineStep_of_init rfl rfl]

/-- With every field but the sequencer at its reset value, STATUS is BUSY alone (R45, R61). -/
theorem statusWord_resetFor (p : Params) (q : Seq) :
    ({ State.resetFor p with seq := q } : State).statusWord =
      if q = .idle then 0x00000000#32 else 0x00000001#32 := by
  cases q <;> simp [State.statusWord, State.busy, State.resetFor, ErrCode.code]

theorem ctrlWord_resetFor (p : Params) : (State.resetFor p).ctrlWord = 0x00000000#32 := by
  simp [State.ctrlWord, State.resetFor]

/-- At reset no pending bit is set and no write has been dropped (R46). -/
theorem irqStatusWord_resetFor (p : Params) : (State.resetFor p).irqStatusWord = 0x00000000#32 := by
  simp [State.irqStatusWord, State.resetFor]

/-- What the registers with a constant of the build read (R41, R42). -/
theorem regRead_constants (s : State) :
    regRead 0x000#12 s = Config.ID ∧ regRead 0x004#12 s = Config.VERSION ∧
    (regRead 0x008#12 s).toNat = s.params.r ∧ (regRead 0x00C#12 s).toNat = s.params.w ∧
    (regRead 0x010#12 s).toNat = s.params.t ∧ (regRead 0x014#12 s).toNat = s.params.nbIter := by
  obtain ⟨hr, hw, ht, hn⟩ := toNat_ofNat_params s.params
  refine ⟨regRead_of_not_volatile s rfl, regRead_of_not_volatile s rfl, ?_, ?_, ?_, ?_⟩ <;>
    rw [regRead_of_not_volatile s rfl]
  · exact hr
  · exact hw
  · exact ht
  · exact hn

/-- Settles O2: `State.resetFor` is the reset table, its first step ends the INIT phase, and the constants are the build's. -/
theorem resetGivesEveryElementItsValue : Obligations.ResetGivesEveryElementItsValue := by
  unfold Obligations.ResetGivesEveryElementItsValue
  rintro p _ rfl
  have afterInit : ∃ t, step (State.resetFor p) = .next t ∧ t.seq = .idle ∧ t.statusWord = 0x00000000#32 :=
    ⟨_, step_resetFor p, rfl, statusWord_resetFor p .idle⟩
  exact ⟨rfl, rfl, rfl, rfl, rfl, rfl, rfl, rfl, rfl,
    rfl, rfl, rfl, rfl, rfl, rfl, rfl, rfl, ctrlWord_resetFor p,
    statusWord_resetFor p .init, afterInit,
    irqStatusWord_resetFor p, rfl, rfl, rfl, rfl, rfl, rfl, rfl, rfl,
    regRead_constants _⟩

end Sys2Proof.Machine
end

section
/-! SUPPORT. The invariant at reset (R221): a reset of a build is the reset state of that build at the released level of `rst`. -/

namespace Sys2Proof.Machine

theorem reset_isReset : State.reset.IsReset := ⟨Config.params, [], rfl⟩

/-- A reset of a build, whatever is pending, is what entering reset and releasing `rst` makes of it. -/
theorem State.IsReset.eq_enterReset {s : State} (h : s.IsReset) : s = s.enterReset false := by
  obtain ⟨p, es, rfl⟩ := h
  rfl

theorem State.IsReset.inv {s : State} (h : s.IsReset) : s.Inv :=
  h.eq_enterReset ▸ enterReset_inv s false

/-- Settles O3: every reset is a reset state entered, and that state has the invariant. -/
theorem resetMeetsTheInvariant : Obligations.ResetMeetsTheInvariant := by
  unfold Obligations.ResetMeetsTheInvariant
  exact ⟨reset_isReset, fun _ h => h.inv⟩

end Sys2Proof.Machine
end
